-- ==== Sys2Proof/Word.lean ====
section
/-! DEFINITION. The word and address types and the names an instruction's small fields take. -/

namespace Sys2Proof

/-- A 16-bit data word (`00_scope.md` R1, R3). -/
abbrev Word := BitVec 16

/-- A 12-bit memory address, the width of PC and MAR (`00_scope.md` R3, `10_state.md` R24, R29). -/
abbrev Addr := BitVec 12

/-- A general register id, two bits (`10_state.md` R20, R21). -/
inductive RegId where
  | r0 | r1 | r2 | r3
  deriving DecidableEq, Repr

/-- An index register id, two bits. `x0` names no register: it reads as 0 (`10_state.md` R22). -/
inductive IndexId where
  | x0 | x1 | x2 | x3
  deriving DecidableEq, Repr

/-- A floating register (`10_state.md` R23). -/
inductive FloatReg where
  | fr0 | fr1
  deriving DecidableEq, Repr

/-- The two-bit floating register field: 0 and 1 select FR0 and FR1, 2 and 3 are illegal
(`10_state.md` R23, `30_encoding.md` R114). -/
inductive FloatId where
  | fr0 | fr1 | illegal2 | illegal3
  deriving DecidableEq, Repr

/-- The floating register a field selects; the illegal values select none (`10_state.md` R23). -/
def FloatId.reg? : FloatId → Option FloatReg
  | .fr0 => some .fr0
  | .fr1 => some .fr1
  | .illegal2 => none
  | .illegal3 => none

/-- JCC's condition-code selector (`42_transfer.md` R202). -/
inductive CcSelector where
  | overflow | underflow | divideByZero | equal
  deriving DecidableEq, Repr

end Sys2Proof
end

