-- ==== Sys2Proof/Config.lean ====
section
/-! DEFINITION. What is fixed for one machine: the parameters of `00_scope.md` R5, and the free values. -/

namespace Sys2Proof

/-- The mnemonics an opcode map can name, one for each instruction of the catalog (`30_encoding.md` R112). -/
inductive Mnemonic where
  | HLT | LDR | STR | LDA | AMR | SMR | AIR | SIR
  | JZ | JNE | JCC | JMA | JSR | RFS | SOB | JGE
  | MLT | DVD | TRR | AND | ORR | NOT
  | TRAP | SRC | RRC | FADD | FSUB | VADD | VSUB | CNVRT
  | LDX | STX | LDFR | STFR | IN | OUT | CHK
  deriving DecidableEq, Repr

/-- OPCODE_MAP: a partial map from 6-bit opcodes to mnemonics (`00_scope.md` R5). An opcode with no
entry is undefined. -/
abbrev OpcodeMap := List (BitVec 6 × Mnemonic)

/-- CHK_MODE (`46_io_system.md` R342). -/
inductive ChkMode where
  | nonEmptyBit | size | draw
  deriving DecidableEq, Repr

/-- The parameters the model takes as arguments (`00_scope.md` R5); DVD_ZERO_RESULT is not a fixed
value but a draw, see `Config.freeWord`. -/
structure Params where
  /-- WORD_COUNT, the memory size in words (R4). -/
  wordCount : Nat
  /-- OPCODE_MAP (`30_encoding.md` R112). -/
  opcodeMap : OpcodeMap
  /-- LDX_EA_INDEXED (`41_load_store.md` R183). -/
  ldxEaIndexed : Bool
  /-- ADD_OVERFLOW_LIMIT (`43_arith_logic.md` R231). -/
  addOverflowLimit : Nat
  /-- ASL_PRESERVES_SIGN (`44_shift_rotate.md` R281). -/
  aslPreservesSign : Bool
  /-- CHK_MODE (`46_io_system.md` R342). -/
  chkMode : ChkMode
  /-- INTERACTIVE, the reset value of MSR.interactive (`10_state.md` R26). -/
  interactive : Bool
  /-- DEBUG, the reset value of MSR.debugging (`10_state.md` R26). -/
  debug : Bool
  deriving DecidableEq, Repr

/-- The ranges `00_scope.md` R4 and R5 require of the parameters. -/
abbrev Params.Valid (p : Params) : Prop :=
  8 ≤ p.wordCount ∧ p.wordCount ≤ 4096 ∧ p.wordCount % 4 = 0 ∧ p.addOverflowLimit < 2 ^ 17

/-- The free 16-bit values: draw number `n` of a run. Nothing constrains them, so what is proved
holds for every draw (`43_arith_logic.md` R246, `46_io_system.md` R342). Log entry 2. -/
opaque Config.freeWord : Nat → Word

end Sys2Proof
end

