-- ==== Sys2Proof/Syntax.lean ====
section
/-! DEFINITION. The instruction set as a type: one constructor for each row of the opcode table, with the
fields `30_encoding.md` R111 marks as used. -/

namespace Sys2Proof

/-- An instruction. `x` is the index id, `ind` the indirect bit I, `addr` the 5-bit displacement and
`imm` the 5-bit immediate (both zero-extended, `30_encoding.md` R109). -/
inductive Instr where
  /-- HLT (`46_io_system.md` R343). -/
  | hlt
  /-- LDR r, x, address[,I] (`41_load_store.md` R180). -/
  | ldr (r : RegId) (x : IndexId) (ind : Bool) (addr : BitVec 5)
  /-- STR r, x, address[,I] (`41_load_store.md` R181). -/
  | str (r : RegId) (x : IndexId) (ind : Bool) (addr : BitVec 5)
  /-- LDA r, x, address[,I] (`41_load_store.md` R182). -/
  | lda (r : RegId) (x : IndexId) (ind : Bool) (addr : BitVec 5)
  /-- AMR r, x, address[,I] (`43_arith_logic.md` R240). -/
  | amr (r : RegId) (x : IndexId) (ind : Bool) (addr : BitVec 5)
  /-- SMR r, x, address[,I] (`43_arith_logic.md` R241). -/
  | smr (r : RegId) (x : IndexId) (ind : Bool) (addr : BitVec 5)
  /-- AIR r, immed (`43_arith_logic.md` R242). -/
  | air (r : RegId) (imm : BitVec 5)
  /-- SIR r, immed (`43_arith_logic.md` R243). -/
  | sir (r : RegId) (imm : BitVec 5)
  /-- JZ r, x, address[,I] (`42_transfer.md` R200). -/
  | jz (r : RegId) (x : IndexId) (ind : Bool) (addr : BitVec 5)
  /-- JNE r, x, address[,I] (`42_transfer.md` R201). -/
  | jne (r : RegId) (x : IndexId) (ind : Bool) (addr : BitVec 5)
  /-- JCC cc, x, address[,I] (`42_transfer.md` R202). -/
  | jcc (sel : CcSelector) (x : IndexId) (ind : Bool) (addr : BitVec 5)
  /-- JMA x, address[,I] (`42_transfer.md` R203). -/
  | jma (x : IndexId) (ind : Bool) (addr : BitVec 5)
  /-- JSR x, address[,I] (`42_transfer.md` R204). -/
  | jsr (x : IndexId) (ind : Bool) (addr : BitVec 5)
  /-- RFS immed (`42_transfer.md` R205). -/
  | rfs (imm : BitVec 5)
  /-- SOB r, x, address[,I] (`42_transfer.md` R206). -/
  | sob (r : RegId) (x : IndexId) (ind : Bool) (addr : BitVec 5)
  /-- JGE r, x, address[,I] (`42_transfer.md` R207). -/
  | jge (r : RegId) (x : IndexId) (ind : Bool) (addr : BitVec 5)
  /-- MLT rx, ry (`43_arith_logic.md` R244). -/
  | mlt (rx ry : RegId)
  /-- DVD rx, ry (`43_arith_logic.md` R245). -/
  | dvd (rx ry : RegId)
  /-- TRR rx, ry (`43_arith_logic.md` R247). -/
  | trr (rx ry : RegId)
  /-- AND rx, ry (`43_arith_logic.md` R248). -/
  | and (rx ry : RegId)
  /-- ORR rx, ry (`43_arith_logic.md` R249). -/
  | orr (rx ry : RegId)
  /-- NOT rx (`43_arith_logic.md` R250). -/
  | not (rx : RegId)
  /-- TRAP code, with TRAPHI the bits 9..4 that must be zero (`46_io_system.md` R350). -/
  | trap (hi : BitVec 6) (code : BitVec 4)
  /-- SRC r, count, L/R, A/L: `al` true is logical, `lr` true is left (`44_shift_rotate.md` R285). -/
  | src (r : RegId) (al lr : Bool) (count : BitVec 4)
  /-- RRC r, count, L/R, A/L (`44_shift_rotate.md` R286). -/
  | rrc (r : RegId) (al lr : Bool) (count : BitVec 4)
  /-- FADD fr, x, address[,I] (`45_floating_vector.md` R308). -/
  | fadd (fr : FloatId) (x : IndexId) (ind : Bool) (addr : BitVec 5)
  /-- FSUB fr, x, address[,I] (`45_floating_vector.md` R309). -/
  | fsub (fr : FloatId) (x : IndexId) (ind : Bool) (addr : BitVec 5)
  /-- VADD fr, x, address[,I] (`45_floating_vector.md` R310). -/
  | vadd (fr : FloatId) (x : IndexId) (ind : Bool) (addr : BitVec 5)
  /-- VSUB fr, x, address[,I] (`45_floating_vector.md` R311). -/
  | vsub (fr : FloatId) (x : IndexId) (ind : Bool) (addr : BitVec 5)
  /-- CNVRT r, x, address[,I] (`45_floating_vector.md` R312). -/
  | cnvrt (r : RegId) (x : IndexId) (ind : Bool) (addr : BitVec 5)
  /-- LDX x, address[,I]: `x` is the register loaded (`41_load_store.md` R183). -/
  | ldx (x : IndexId) (ind : Bool) (addr : BitVec 5)
  /-- STX x, address[,I]: `x` is the register stored (`41_load_store.md` R184). -/
  | stx (x : IndexId) (ind : Bool) (addr : BitVec 5)
  /-- LDFR fr, x, address[,I] (`41_load_store.md` R185). -/
  | ldfr (fr : FloatId) (x : IndexId) (ind : Bool) (addr : BitVec 5)
  /-- STFR fr, x, address[,I] (`41_load_store.md` R186). -/
  | stfr (fr : FloatId) (x : IndexId) (ind : Bool) (addr : BitVec 5)
  /-- IN r, devid (`46_io_system.md` R340). -/
  | inp (r : RegId) (dev : BitVec 5)
  /-- OUT r, devid (`46_io_system.md` R341). -/
  | out (r : RegId) (dev : BitVec 5)
  /-- CHK r, devid (`46_io_system.md` R342). -/
  | chk (r : RegId) (dev : BitVec 5)
  deriving DecidableEq, Repr

end Sys2Proof
end

