-- ==== Sys2Proof/WellFormed.lean ====
section
/-! DEFINITION. The legal operand ids of each instruction (`30_encoding.md` R114). An instruction outside
its legal set is not unencodable: it decodes FAULTED, see `40_control_unit.md` R146, R147. -/

namespace Sys2Proof

/-- MLT and DVD take the register pairs that start at R0 and R2 only. -/
def RegId.startsPair : RegId → Bool
  | .r0 => true
  | .r1 => false
  | .r2 => true
  | .r3 => false

/-- The field selects one of the two floating registers. -/
def FloatId.legal (f : FloatId) : Bool := f.reg?.isSome

/-- The index register can be loaded and stored: X0 cannot. -/
def IndexId.storable : IndexId → Bool
  | .x0 => false
  | .x1 => true
  | .x2 => true
  | .x3 => true

/-- Every operand id is in the instruction's legal set (`30_encoding.md` R114). -/
def Instr.wellFormed : Instr → Bool
  | .mlt rx ry => rx.startsPair && ry.startsPair
  | .dvd rx ry => rx.startsPair && ry.startsPair
  | .fadd fr _ _ _ => fr.legal
  | .fsub fr _ _ _ => fr.legal
  | .vadd fr _ _ _ => fr.legal
  | .vsub fr _ _ _ => fr.legal
  | .ldfr fr _ _ _ => fr.legal
  | .stfr fr _ _ _ => fr.legal
  | .ldx x _ _ => x.storable
  | .stx x _ _ => x.storable
  | .hlt => true
  | .ldr _ _ _ _ => true
  | .str _ _ _ _ => true
  | .lda _ _ _ _ => true
  | .amr _ _ _ _ => true
  | .smr _ _ _ _ => true
  | .air _ _ => true
  | .sir _ _ => true
  | .jz _ _ _ _ => true
  | .jne _ _ _ _ => true
  | .jcc _ _ _ _ => true
  | .jma _ _ _ => true
  | .jsr _ _ _ => true
  | .rfs _ => true
  | .sob _ _ _ _ => true
  | .jge _ _ _ _ => true
  | .trr _ _ => true
  | .and _ _ => true
  | .orr _ _ => true
  | .not _ => true
  | .trap _ _ => true
  | .src _ _ _ _ => true
  | .rrc _ _ _ _ => true
  | .cnvrt _ _ _ _ => true
  | .inp _ _ => true
  | .out _ _ => true
  | .chk _ _ => true

end Sys2Proof
end

