-- ==== Sys2Proof/Decode.lean ====
section
/-! DEFINITION. Decoding and encoding of the one-word instructions (`30_encoding.md`). Bit 0 is the least
significant bit of a word (`00_scope.md` R6). -/

namespace Sys2Proof

/-- The rejections of decode, by name. -/
inductive DecodeError where
  /-- The opcode field has no entry in OPCODE_MAP: Decode raises Fault(2) (`30_encoding.md` R113). -/
  | illegalOpcode (op : BitVec 6)
  deriving DecidableEq, Repr

/-! Field codes -/

/-- The general register a two-bit field names. -/
def RegId.ofBits (b : BitVec 2) : RegId :=
  match b.toNat with
  | 0 => .r0
  | 1 => .r1
  | 2 => .r2
  | _ => .r3

/-- The two-bit code of a general register. -/
def RegId.bits : RegId → BitVec 2
  | .r0 => 0
  | .r1 => 1
  | .r2 => 2
  | .r3 => 3

/-- The index id a two-bit field names. -/
def IndexId.ofBits (b : BitVec 2) : IndexId :=
  match b.toNat with
  | 0 => .x0
  | 1 => .x1
  | 2 => .x2
  | _ => .x3

/-- The two-bit code of an index id. -/
def IndexId.bits : IndexId → BitVec 2
  | .x0 => 0
  | .x1 => 1
  | .x2 => 2
  | .x3 => 3

/-- The floating field of a two-bit code. -/
def FloatId.ofBits (b : BitVec 2) : FloatId :=
  match b.toNat with
  | 0 => .fr0
  | 1 => .fr1
  | 2 => .illegal2
  | _ => .illegal3

/-- The two-bit code of a floating field. -/
def FloatId.bits : FloatId → BitVec 2
  | .fr0 => 0
  | .fr1 => 1
  | .illegal2 => 2
  | .illegal3 => 3

/-- JCC's selector: 0 overflow, 1 underflow, 2 divide-by-zero, 3 equal (`42_transfer.md` R202). -/
def CcSelector.ofBits (b : BitVec 2) : CcSelector :=
  match b.toNat with
  | 0 => .overflow
  | 1 => .underflow
  | 2 => .divideByZero
  | _ => .equal

/-- The two-bit code of JCC's selector. -/
def CcSelector.bits : CcSelector → BitVec 2
  | .overflow => 0
  | .underflow => 1
  | .divideByZero => 2
  | .equal => 3

/-! The bit fields of a word (`30_encoding.md` R100 to R107) -/

/-- `w[15:10]`. -/
def opcodeField (w : Word) : BitVec 6 := w.extractLsb' 10 6

/-- `w[9:8]`: R, RX, fr or the condition-code selector. -/
def rField (w : Word) : BitVec 2 := w.extractLsb' 8 2

/-- `w[7:6]`: IX or RY. -/
def ixField (w : Word) : BitVec 2 := w.extractLsb' 6 2

/-- `w[5]`: the indirect bit. -/
def indirectField (w : Word) : Bool := w.getLsbD 5

/-- `w[4:0]`: ADDR, the immediate, or DEVID. -/
def addrField (w : Word) : BitVec 5 := w.extractLsb' 0 5

/-- `w[7]`: AL of the SR format. -/
def alField (w : Word) : Bool := w.getLsbD 7

/-- `w[6]`: LR of the SR format. -/
def lrField (w : Word) : Bool := w.getLsbD 6

/-- `w[3:0]`: COUNT or CODE. -/
def lowNibble (w : Word) : BitVec 4 := w.extractLsb' 0 4

/-- `w[9:4]`: TRAPHI. -/
def trapHiField (w : Word) : BitVec 6 := w.extractLsb' 4 6

/-! Decode -/

/-- The default OPCODE_MAP, the table of `30_encoding.md` R112 (opcodes in decimal). -/
def defaultOpcodeMap : OpcodeMap :=
  [(0, .HLT), (1, .LDR), (2, .STR), (3, .LDA), (4, .AMR), (5, .SMR), (6, .AIR), (7, .SIR)]
  ++ [(8, .JZ), (9, .JNE), (10, .JCC), (11, .JMA), (12, .JSR), (13, .RFS), (14, .SOB), (15, .JGE)]
  ++ [(16, .MLT), (17, .DVD), (18, .TRR), (19, .AND), (20, .ORR), (21, .NOT)]
  ++ [(24, .TRAP), (25, .SRC), (26, .RRC), (27, .FADD), (28, .FSUB), (29, .VADD), (30, .VSUB), (31, .CNVRT)]
  ++ [(33, .LDX), (34, .STX), (40, .LDFR), (41, .STFR), (49, .IN), (50, .OUT), (51, .CHK)]

/-- The instruction a word carries once its opcode names the mnemonic: the fields of
`40_control_unit.md` R144, less those `30_encoding.md` R111 marks as ignored. -/
def Mnemonic.instr (m : Mnemonic) (w : Word) : Instr :=
  let r := RegId.ofBits (rField w)
  let ry := RegId.ofBits (ixField w)
  let fr := FloatId.ofBits (rField w)
  let x := IndexId.ofBits (ixField w)
  let ind := indirectField w
  let addr := addrField w
  match m with
  | .HLT => .hlt
  | .LDR => .ldr r x ind addr
  | .STR => .str r x ind addr
  | .LDA => .lda r x ind addr
  | .AMR => .amr r x ind addr
  | .SMR => .smr r x ind addr
  | .AIR => .air r addr
  | .SIR => .sir r addr
  | .JZ => .jz r x ind addr
  | .JNE => .jne r x ind addr
  | .JCC => .jcc (CcSelector.ofBits (rField w)) x ind addr
  | .JMA => .jma x ind addr
  | .JSR => .jsr x ind addr
  | .RFS => .rfs addr
  | .SOB => .sob r x ind addr
  | .JGE => .jge r x ind addr
  | .MLT => .mlt r ry
  | .DVD => .dvd r ry
  | .TRR => .trr r ry
  | .AND => .and r ry
  | .ORR => .orr r ry
  | .NOT => .not r
  | .TRAP => .trap (trapHiField w) (lowNibble w)
  | .SRC => .src r (alField w) (lrField w) (lowNibble w)
  | .RRC => .rrc r (alField w) (lrField w) (lowNibble w)
  | .FADD => .fadd fr x ind addr
  | .FSUB => .fsub fr x ind addr
  | .VADD => .vadd fr x ind addr
  | .VSUB => .vsub fr x ind addr
  | .CNVRT => .cnvrt r x ind addr
  | .LDX => .ldx x ind addr
  | .STX => .stx x ind addr
  | .LDFR => .ldfr fr x ind addr
  | .STFR => .stfr fr x ind addr
  | .IN => .inp r addr
  | .OUT => .out r addr
  | .CHK => .chk r addr

/-- Decode of a word under an opcode map (`40_control_unit.md` R143, R144). Total: every word is an
instruction or is rejected by name (`30_encoding.md` R115, R116). -/
def decode (map : OpcodeMap) (w : Word) : Except DecodeError Instr :=
  match map.lookup (opcodeField w) with
  | some m => .ok (m.instr w)
  | none => .error (.illegalOpcode (opcodeField w))

/-! Encode -/

/-- The row of the opcode table an instruction belongs to. -/
def Instr.mnemonic : Instr → Mnemonic
  | .hlt => .HLT
  | .ldr _ _ _ _ => .LDR
  | .str _ _ _ _ => .STR
  | .lda _ _ _ _ => .LDA
  | .amr _ _ _ _ => .AMR
  | .smr _ _ _ _ => .SMR
  | .air _ _ => .AIR
  | .sir _ _ => .SIR
  | .jz _ _ _ _ => .JZ
  | .jne _ _ _ _ => .JNE
  | .jcc _ _ _ _ => .JCC
  | .jma _ _ _ => .JMA
  | .jsr _ _ _ => .JSR
  | .rfs _ => .RFS
  | .sob _ _ _ _ => .SOB
  | .jge _ _ _ _ => .JGE
  | .mlt _ _ => .MLT
  | .dvd _ _ => .DVD
  | .trr _ _ => .TRR
  | .and _ _ => .AND
  | .orr _ _ => .ORR
  | .not _ => .NOT
  | .trap _ _ => .TRAP
  | .src _ _ _ _ => .SRC
  | .rrc _ _ _ _ => .RRC
  | .fadd _ _ _ _ => .FADD
  | .fsub _ _ _ _ => .FSUB
  | .vadd _ _ _ _ => .VADD
  | .vsub _ _ _ _ => .VSUB
  | .cnvrt _ _ _ _ => .CNVRT
  | .ldx _ _ _ => .LDX
  | .stx _ _ _ => .STX
  | .ldfr _ _ _ _ => .LDFR
  | .stfr _ _ _ _ => .STFR
  | .inp _ _ => .IN
  | .out _ _ => .OUT
  | .chk _ _ => .CHK

/-- The default opcode number of a mnemonic (`30_encoding.md` R112), in decimal. -/
def Mnemonic.opcode : Mnemonic → BitVec 6
  | .HLT => 0
  | .LDR => 1
  | .STR => 2
  | .LDA => 3
  | .AMR => 4
  | .SMR => 5
  | .AIR => 6
  | .SIR => 7
  | .JZ => 8
  | .JNE => 9
  | .JCC => 10
  | .JMA => 11
  | .JSR => 12
  | .RFS => 13
  | .SOB => 14
  | .JGE => 15
  | .MLT => 16
  | .DVD => 17
  | .TRR => 18
  | .AND => 19
  | .ORR => 20
  | .NOT => 21
  | .TRAP => 24
  | .SRC => 25
  | .RRC => 26
  | .FADD => 27
  | .FSUB => 28
  | .VADD => 29
  | .VSUB => 30
  | .CNVRT => 31
  | .LDX => 33
  | .STX => 34
  | .LDFR => 40
  | .STFR => 41
  | .IN => 49
  | .OUT => 50
  | .CHK => 51

/-- RM format: opcode, R, IX, I, ADDR (`30_encoding.md` R102). -/
def encodeRM (op : BitVec 6) (r x : BitVec 2) (ind : Bool) (addr : BitVec 5) : Word :=
  op ++ r ++ x ++ BitVec.ofBool ind ++ addr

/-- RR format: opcode, RX, RY, six unused bits (`30_encoding.md` R103). -/
def encodeRR (op : BitVec 6) (rx ry : BitVec 2) : Word := op ++ rx ++ ry ++ (0 : BitVec 6)

/-- SR format: opcode, R, AL, LR, two unused bits, COUNT (`30_encoding.md` R104). -/
def encodeSR (op : BitVec 6) (r : BitVec 2) (al lr : Bool) (count : BitVec 4) : Word :=
  op ++ r ++ BitVec.ofBool al ++ BitVec.ofBool lr ++ (0 : BitVec 2) ++ count

/-- IO format: opcode, R, three unused bits, DEVID (`30_encoding.md` R105). -/
def encodeIO (op : BitVec 6) (r : BitVec 2) (dev : BitVec 5) : Word := op ++ r ++ (0 : BitVec 3) ++ dev

/-- TRAP format: opcode, TRAPHI, CODE (`30_encoding.md` R106). -/
def encodeTrap (op : BitVec 6) (hi : BitVec 6) (code : BitVec 4) : Word := op ++ hi ++ code

/-- HLT format: opcode, ten unused bits (`30_encoding.md` R107). -/
def encodeHlt (op : BitVec 6) : Word := op ++ (0 : BitVec 10)

/-- The word of an instruction under the default opcode numbers; every unused bit is 0. -/
def encode (i : Instr) : Word :=
  let op := i.mnemonic.opcode
  match i with
  | .hlt => encodeHlt op
  | .ldr r x ind addr => encodeRM op r.bits x.bits ind addr
  | .str r x ind addr => encodeRM op r.bits x.bits ind addr
  | .lda r x ind addr => encodeRM op r.bits x.bits ind addr
  | .amr r x ind addr => encodeRM op r.bits x.bits ind addr
  | .smr r x ind addr => encodeRM op r.bits x.bits ind addr
  | .air r imm => encodeRM op r.bits 0 false imm
  | .sir r imm => encodeRM op r.bits 0 false imm
  | .jz r x ind addr => encodeRM op r.bits x.bits ind addr
  | .jne r x ind addr => encodeRM op r.bits x.bits ind addr
  | .jcc sel x ind addr => encodeRM op sel.bits x.bits ind addr
  | .jma x ind addr => encodeRM op 0 x.bits ind addr
  | .jsr x ind addr => encodeRM op 0 x.bits ind addr
  | .rfs imm => encodeRM op 0 0 false imm
  | .sob r x ind addr => encodeRM op r.bits x.bits ind addr
  | .jge r x ind addr => encodeRM op r.bits x.bits ind addr
  | .mlt rx ry => encodeRR op rx.bits ry.bits
  | .dvd rx ry => encodeRR op rx.bits ry.bits
  | .trr rx ry => encodeRR op rx.bits ry.bits
  | .and rx ry => encodeRR op rx.bits ry.bits
  | .orr rx ry => encodeRR op rx.bits ry.bits
  | .not rx => encodeRR op rx.bits 0
  | .trap hi code => encodeTrap op hi code
  | .src r al lr count => encodeSR op r.bits al lr count
  | .rrc r al lr count => encodeSR op r.bits al lr count
  | .fadd fr x ind addr => encodeRM op fr.bits x.bits ind addr
  | .fsub fr x ind addr => encodeRM op fr.bits x.bits ind addr
  | .vadd fr x ind addr => encodeRM op fr.bits x.bits ind addr
  | .vsub fr x ind addr => encodeRM op fr.bits x.bits ind addr
  | .cnvrt r x ind addr => encodeRM op r.bits x.bits ind addr
  | .ldx x ind addr => encodeRM op 0 x.bits ind addr
  | .stx x ind addr => encodeRM op 0 x.bits ind addr
  | .ldfr fr x ind addr => encodeRM op fr.bits x.bits ind addr
  | .stfr fr x ind addr => encodeRM op fr.bits x.bits ind addr
  | .inp r dev => encodeIO op r.bits dev
  | .out r dev => encodeIO op r.bits dev
  | .chk r dev => encodeIO op r.bits dev

/-- The bits of a word that carry the opcode or a field the mnemonic uses (`30_encoding.md` R111): the
"relevant bits" of R116. -/
def Mnemonic.relevantBits : Mnemonic → Word
  | .HLT => 0xFC00
  | .LDR => 0xFFFF
  | .STR => 0xFFFF
  | .LDA => 0xFFFF
  | .AMR => 0xFFFF
  | .SMR => 0xFFFF
  | .AIR => 0xFF1F
  | .SIR => 0xFF1F
  | .JZ => 0xFFFF
  | .JNE => 0xFFFF
  | .JCC => 0xFFFF
  | .JMA => 0xFCFF
  | .JSR => 0xFCFF
  | .RFS => 0xFC1F
  | .SOB => 0xFFFF
  | .JGE => 0xFFFF
  | .MLT => 0xFFC0
  | .DVD => 0xFFC0
  | .TRR => 0xFFC0
  | .AND => 0xFFC0
  | .ORR => 0xFFC0
  | .NOT => 0xFF00
  | .TRAP => 0xFFFF
  | .SRC => 0xFFCF
  | .RRC => 0xFFCF
  | .FADD => 0xFFFF
  | .FSUB => 0xFFFF
  | .VADD => 0xFFFF
  | .VSUB => 0xFFFF
  | .CNVRT => 0xFFFF
  | .LDX => 0xFCFF
  | .STX => 0xFCFF
  | .LDFR => 0xFFFF
  | .STFR => 0xFFFF
  | .IN => 0xFF1F
  | .OUT => 0xFF1F
  | .CHK => 0xFF1F

/-- The decoder on one instruction whose bits are `w`, numbered as `spec/opcode_table.json` numbers
them: every instruction is one word, so the bits above `nbits` are 0 and there is no further word. -/
def decodeTableWord (nbits w : Nat) : Option Instr :=
  match decode defaultOpcodeMap (BitVec.ofNat 16 (w % 2 ^ nbits)) with
  | .ok i => some i
  | .error _ => none

/-- The parameters at the defaults of `00_scope.md` R5. INTERACTIVE and DEBUG are the host's choice there:
false here, log entry 5. -/
def defaultParams : Params :=
  { wordCount := 2048, opcodeMap := defaultOpcodeMap, ldxEaIndexed := false, addOverflowLimit := 0xFFFF,
    aslPreservesSign := false, chkMode := .nonEmptyBit, interactive := false, debug := false }

end Sys2Proof
end

