-- ==== Sys2Proof/Machine/State.lean ====
section
/-! DEFINITION. The machine's state as plain data (`10_state.md`), the reasons a step stops, and reset. -/

namespace Sys2Proof.Machine

/-- The four machine faults (`60_exceptions.md` R370). -/
inductive FaultCode where
  /-- Code 0: an access below address 6 in user mode. -/
  | protectedAccess
  /-- Code 1: TRAP with `w[9:4] != 0`. -/
  | illegalTrapCode
  /-- Code 2: an opcode with no entry in OPCODE_MAP. -/
  | illegalOpcode
  /-- Code 3: a data access at or beyond WORD_COUNT. -/
  | beyondLimit
  deriving DecidableEq, Repr

/-- The reasons the spec's engine refuses for (`40_control_unit.md` R148). -/
inductive RefuseReason where
  /-- VADD, VSUB (`45_floating_vector.md` R310, R311). -/
  | vectorUnspecified
  /-- CNVRT with a selector other than 0 or 1 (`45_floating_vector.md` R312). -/
  | convertSelector
  deriving DecidableEq, Repr

/-- The reasons a step faults, that is, the engine has no step. -/
inductive Fault where
  /-- Raised by `step` and `tick` when the fatal mark is set: "While it is set the engine has no step"
  (`10_state.md` R36, `60_exceptions.md` R376). Safe: the spec's own stuck state. -/
  | fatalStop
  deriving DecidableEq, Repr

/-- The reasons a step is refused. -/
inductive Refusal where
  /-- An instruction rejected by name in `exec`. No arm uses it: every instruction has its meaning. Safe. -/
  | notModelled (mnemonic : String)
  /-- Raised by `step` and `tick` when the refused mark is set, with its reason: "While it is set the
  engine has no step" (`10_state.md` R37, `40_control_unit.md` R148). Safe: the spec's own stop. -/
  | marked (reason : RefuseReason)
  deriving DecidableEq, Repr

/-- The general registers (`10_state.md` R20). -/
structure Regs where
  r0 : Word
  r1 : Word
  r2 : Word
  r3 : Word
  deriving DecidableEq, Repr

/-- The index registers; X0 is a constant and is not held (`10_state.md` R22). -/
structure IndexRegs where
  x1 : Word
  x2 : Word
  x3 : Word
  deriving DecidableEq, Repr

/-- The floating registers (`10_state.md` R23). -/
structure FloatRegs where
  fr0 : Word
  fr1 : Word
  deriving DecidableEq, Repr

/-- The condition code (`10_state.md` R25). Less-than is derived and never stored. -/
structure CC where
  ov : Bool
  un : Bool
  dz : Bool
  eq : Bool
  gt : Bool
  deriving DecidableEq, Repr

/-- The machine status register (`10_state.md` R26). -/
structure MSR where
  supervisor : Bool
  readyForInput : Bool
  running : Bool
  interactive : Bool
  debugging : Bool
  executingFaultHandler : Bool
  supervisorFault : Bool
  waitingForCard : Bool
  deriving DecidableEq, Repr

/-- The machine fault register: the flag of fault code k is bit k (`10_state.md` R27). -/
structure MFR where
  protectedAccess : Bool
  illegalTrapCode : Bool
  illegalOpcode : Bool
  beyondLimit : Bool
  deriving DecidableEq, Repr

/-- The ALU's latches (`10_state.md` R32). -/
structure AluLatches where
  a : Word
  b : Word
  y : BitVec 32
  y2 : BitVec 32
  deriving DecidableEq, Repr

/-- The FPU's latches (`10_state.md` R32); DEDUCED to be apart from the ALU's, log entry 8. -/
structure FpuLatches where
  a : Word
  b : Word
  y : Word
  deriving DecidableEq, Repr

/-- The current-instruction record (`10_state.md` R35). -/
structure Record where
  /-- The decoded instruction: mnemonic and operand fields. -/
  instr : Instr
  /-- The faulted mark (`40_control_unit.md` R146). -/
  faulted : Bool
  /-- OPND, the memory operand read in Operand Fetch (`40_control_unit.md` R151). -/
  opnd : Word
  /-- The condition a transfer evaluates in Execute. -/
  take : Bool
  /-- V, the value Execute leaves for Result Store (IN, CHK, CNVRT). -/
  value : Word
  /-- F, CNVRT's selector, read in Execute (`45_floating_vector.md` R312). -/
  selector : Word
  deriving DecidableEq, Repr

/-- The phase counter together with the current-instruction record, which exists exactly in the phases
after Decode (`10_state.md` R34, R35). It names the phase the next tick performs. Log entry 7. -/
inductive Control where
  /-- Phase 1, Instruction Fetch; no record. -/
  | fetch
  /-- Phase 2, Instruction Decode; no record yet. -/
  | decode
  /-- Phase 3, Operand Fetch. -/
  | operandFetch (c : Record)
  /-- Phase 4, Execute. -/
  | execute (c : Record)
  /-- Phase 5, Result Store. -/
  | resultStore (c : Record)
  deriving DecidableEq, Repr

/-- The phase counter, 1..5 (`10_state.md` R34). -/
def Control.phaseNumber : Control → Nat
  | .fetch => 1
  | .decode => 2
  | .operandFetch _ => 3
  | .execute _ => 4
  | .resultStore _ => 5

/-- The current-instruction record, empty outside phases 3 to 5 (`10_state.md` R35). -/
def Control.record? : Control → Option Record
  | .fetch => none
  | .decode => none
  | .operandFetch c => some c
  | .execute c => some c
  | .resultStore c => some c

/-- A valid cache line: a 10-bit tag and the four words of its block (`20_memory.md` R66). -/
structure CacheLine where
  tag : BitVec 10
  w0 : Word
  w1 : Word
  w2 : Word
  w3 : Word
  deriving DecidableEq, Repr

/-- Memory words by address (`20_memory.md` R60): addresses strictly rising, no word equal to
`Memory.unlisted`. The cell is the 16-bit word, the smallest unit an address names (R73). Log entry 3. -/
abbrev Memory := List (Nat × Word)

/-- What an address with no entry reads as: memory is "zeroed on reset" (`20_memory.md` R60). -/
abbrev Memory.unlisted : Word := 0

/-- The canonical form: addresses strictly rising, no entry equal to what an unlisted address reads as. -/
abbrev Memory.wf (m : Memory) : Prop :=
  m.Pairwise (fun c d => c.1 < d.1) ∧ ∀ c ∈ m, c.2 ≠ Memory.unlisted

/-- The state of the engine (`10_state.md` R39). -/
structure State where
  /-- The parameters of `00_scope.md` R5; no step changes them. Log entry 4. -/
  cfg : Params
  /-- R0..R3. -/
  regs : Regs
  /-- X1..X3. -/
  index : IndexRegs
  /-- FR0, FR1. -/
  fregs : FloatRegs
  /-- The program counter (R24). -/
  pc : Addr
  /-- The condition code (R25). -/
  cc : CC
  /-- The machine status register (R26). -/
  msr : MSR
  /-- The machine fault register (R27). -/
  mfr : MFR
  /-- The instruction register (R28). -/
  ir : Word
  /-- The memory address register (R29). -/
  mar : Addr
  /-- The memory buffer register (R30). -/
  mbr : Word
  /-- The internal address register (R33). -/
  iar : Word
  /-- The ALU latches (R32). -/
  alu : AluLatches
  /-- The FPU latches (R32). -/
  fpu : FpuLatches
  /-- The phase counter and the current-instruction record (R34, R35). -/
  control : Control
  /-- Memory M (`20_memory.md` R60). -/
  mem : Memory
  /-- The valid cache lines in insertion order, oldest first (`20_memory.md` R66). Log entry 6. -/
  cache : List CacheLine
  /-- The 32 device buffers, each oldest word first (R38). -/
  devices : Vector (List Word) 32
  /-- The fatal mark (R36). -/
  fatal : Bool
  /-- The refused mark with its reason (R37). -/
  refused : Option RefuseReason
  /-- The model's own: how many free values have been used. Log entry 2. -/
  draws : Nat
  deriving DecidableEq, Repr

/-- The state `reset` leaves under given parameters (`70_reset_and_hazards.md` R410). -/
def State.initial (cfg : Params) : State :=
  { cfg := cfg
    regs := { r0 := 0, r1 := 0, r2 := 0, r3 := 0 }
    index := { x1 := 0, x2 := 0, x3 := 0 }
    fregs := { fr0 := 0, fr1 := 0 }
    pc := 0
    cc := { ov := false, un := false, dz := false, eq := false, gt := false }
    msr := { supervisor := false, readyForInput := false, running := false, interactive := cfg.interactive,
             debugging := cfg.debug, executingFaultHandler := false, supervisorFault := false,
             waitingForCard := false }
    mfr := { protectedAccess := false, illegalTrapCode := false, illegalOpcode := false, beyondLimit := false }
    ir := 0
    mar := 0
    mbr := 0
    iar := 0
    alu := { a := 0, b := 0, y := 0, y2 := 0 }
    fpu := { a := 0, b := 0, y := 0 }
    control := .fetch
    mem := []
    cache := []
    devices := Vector.replicate 32 []
    fatal := false
    refused := none
    draws := 0 }

/-- The machine right after reset, at the default parameters. -/
def State.reset : State := State.initial defaultParams

end Sys2Proof.Machine
end

