-- ==== Sys2Proof/Machine/Ops.lean ====
section
/-! DEFINITION. The named operations over registers, memory, cache and devices; the phase results; fault
dispatch. -/

namespace Sys2Proof.Machine

/-! Registers -/

/-- `R[i]` (`00_scope.md` R8). -/
def Regs.get (g : Regs) : RegId → Word
  | .r0 => g.r0
  | .r1 => g.r1
  | .r2 => g.r2
  | .r3 => g.r3

/-- `R[i] <- v`. -/
def Regs.set (g : Regs) (i : RegId) (v : Word) : Regs :=
  match i with
  | .r0 => { g with r0 := v }
  | .r1 => { g with r1 := v }
  | .r2 => { g with r2 := v }
  | .r3 => { g with r3 := v }

/-- `X[i]`, where `X[0]` is the constant 0 (`10_state.md` R22). -/
def IndexRegs.get (g : IndexRegs) : IndexId → Word
  | .x0 => 0
  | .x1 => g.x1
  | .x2 => g.x2
  | .x3 => g.x3

/-- `X[i] <- v`; X0 "cannot be written" (`10_state.md` R22). -/
def IndexRegs.set (g : IndexRegs) (i : IndexId) (v : Word) : IndexRegs :=
  match i with
  | .x0 => g
  | .x1 => { g with x1 := v }
  | .x2 => { g with x2 := v }
  | .x3 => { g with x3 := v }

/-- `FR[i]`. -/
def FloatRegs.get (g : FloatRegs) : FloatReg → Word
  | .fr0 => g.fr0
  | .fr1 => g.fr1

/-- `FR[i] <- v`. -/
def FloatRegs.set (g : FloatRegs) (i : FloatReg) (v : Word) : FloatRegs :=
  match i with
  | .fr0 => { g with fr0 := v }
  | .fr1 => { g with fr1 := v }

/-- The register after `r`: the low half of a pair (`43_arith_logic.md` R244). MLT and DVD execute with
`r` in {R0, R2} only. -/
def nextReg : RegId → RegId
  | .r0 => .r1
  | .r1 => .r2
  | .r2 => .r3
  | .r3 => .r0

/-- Write a general register. -/
def State.setReg (s : State) (i : RegId) (v : Word) : State := { s with regs := s.regs.set i v }

/-- Write an index register. -/
def State.setIndex (s : State) (i : IndexId) (v : Word) : State := { s with index := s.index.set i v }

/-- Write a floating register. -/
def State.setFloat (s : State) (i : FloatReg) (v : Word) : State := { s with fregs := s.fregs.set i v }

/-- `PC <- v`, which stores `v mod 2^12` (`10_state.md` R24, R31). -/
def State.setPc (s : State) (v : Word) : State := { s with pc := v.setWidth 12 }

/-- Set MSR.running to 0. -/
def State.stopRunning (s : State) : State := { s with msr := { s.msr with running := false } }

/-- Set the phase counter and the record. -/
def State.setControl (s : State) (k : Control) : State := { s with control := k }

/-- `refuse(reason)`: set the refused mark with the reason (`40_control_unit.md` R148). -/
def State.refuse (s : State) (r : RefuseReason) : State := { s with refused := some r }

/-- The packed CC byte: bit 0 OV, 1 UN, 2 DZ, 3 EQ, 4 GT (`10_state.md` R25). -/
def CC.packed (c : CC) : BitVec 8 :=
  (0 : BitVec 3) ++ BitVec.ofBool c.gt ++ BitVec.ofBool c.eq ++ BitVec.ofBool c.dz ++ BitVec.ofBool c.un
    ++ BitVec.ofBool c.ov

/-- The packed MSR, bits 0..7 in the order of `10_state.md` R26. -/
def MSR.packed (m : MSR) : BitVec 8 :=
  BitVec.ofBool m.waitingForCard ++ BitVec.ofBool m.supervisorFault ++ BitVec.ofBool m.executingFaultHandler
    ++ BitVec.ofBool m.debugging ++ BitVec.ofBool m.interactive ++ BitVec.ofBool m.running
    ++ BitVec.ofBool m.readyForInput ++ BitVec.ofBool m.supervisor

/-- The packed MFR: bit k is the flag of fault code k (`10_state.md` R27). -/
def MFR.packed (m : MFR) : BitVec 4 :=
  BitVec.ofBool m.beyondLimit ++ BitVec.ofBool m.illegalOpcode ++ BitVec.ofBool m.illegalTrapCode
    ++ BitVec.ofBool m.protectedAccess

/-! Memory -/

/-- The word at an address. -/
def Memory.read : Memory → Nat → Word
  | [], _ => Memory.unlisted
  | (k, v) :: t, a => if k = a then v else Memory.read t a

/-- Store a word at an address, keeping the canonical form. -/
def Memory.write : Memory → Nat → Word → Memory
  | [], a, v => if v = Memory.unlisted then [] else [(a, v)]
  | (k, w) :: t, a, v =>
    if a < k then (if v = Memory.unlisted then (k, w) :: t else (a, v) :: (k, w) :: t)
    else if a = k then (if v = Memory.unlisted then t else (a, v) :: t)
    else (k, w) :: Memory.write t a v

/-! Cache -/

/-- `tag = a >> 2` (`20_memory.md` R66). -/
def tagOf (a : Addr) : BitVec 10 := a.extractLsb' 2 10

/-- `offset = a & 3` (`20_memory.md` R66). -/
def offsetOf (a : Addr) : Nat := a.toNat % 4

/-- Word `k` of a line. -/
def CacheLine.word (l : CacheLine) : Nat → Word
  | 0 => l.w0
  | 1 => l.w1
  | 2 => l.w2
  | _ => l.w3

/-- Replace word `k` of a line. -/
def CacheLine.setWord (l : CacheLine) (k : Nat) (v : Word) : CacheLine :=
  match k with
  | 0 => { l with w0 := v }
  | 1 => { l with w1 := v }
  | 2 => { l with w2 := v }
  | _ => { l with w3 := v }

/-- The line a read miss at `a` loads: the aligned block of four words (`20_memory.md` R68). -/
def lineOf (m : Memory) (a : Addr) : CacheLine :=
  let base := 4 * (tagOf a).toNat
  { tag := tagOf a, w0 := m.read base, w1 := m.read (base + 1), w2 := m.read (base + 2),
    w3 := m.read (base + 3) }

/-- The valid line that holds a tag (`20_memory.md` R67). -/
def cacheFind (cache : List CacheLine) (tag : BitVec 10) : Option CacheLine :=
  cache.find? (fun l => l.tag = tag)

/-- Append a line as the newest, evicting the oldest when 16 are valid (`20_memory.md` R68). -/
def cacheInsert (cache : List CacheLine) (l : CacheLine) : List CacheLine :=
  (if 16 ≤ cache.length then cache.drop 1 else cache) ++ [l]

/-- A write updates the cached word in place and allocates no line (`20_memory.md` R69). -/
def cacheUpdate (cache : List CacheLine) (a : Addr) (v : Word) : List CacheLine :=
  cache.map (fun l => if l.tag = tagOf a then l.setWord (offsetOf a) v else l)

/-! Memory accesses -/

/-- CheckAccess (`20_memory.md` R62). -/
def checkAccess (wordCount : Nat) (a : Addr) (priv : Bool) : Option FaultCode :=
  if a.toNat < 6 ∧ priv = false then some .protectedAccess
  else if wordCount ≤ a.toNat then some .beyondLimit
  else none

/-- The word CacheRead returns (`20_memory.md` R67, R68). -/
def State.cachedWord (s : State) (a : Addr) : Word :=
  match cacheFind s.cache (tagOf a) with
  | some l => l.word (offsetOf a)
  | none => s.mem.read a.toNat

/-- The cache after CacheRead: unchanged on a hit, refilled on a miss (`20_memory.md` R67, R68). -/
def State.cacheAfterRead (s : State) (a : Addr) : List CacheLine :=
  match cacheFind s.cache (tagOf a) with
  | some _ => s.cache
  | none => cacheInsert s.cache (lineOf s.mem a)

/-- The effect of a read that passed its check: MAR, MBR and the cache (`20_memory.md` R63). -/
def State.afterLoad (s : State) (a : Addr) : State :=
  { s with mar := a, mbr := s.cachedWord a, cache := s.cacheAfterRead a }

/-- The effect of a write that passed its check: MAR, MBR, memory and a cached word (`20_memory.md` R64). -/
def State.storeWord (s : State) (a : Addr) (v : Word) : State :=
  { s with mar := a, mbr := v, mem := s.mem.write a.toNat v, cache := cacheUpdate s.cache a v }

/-- Read(a, priv) (`20_memory.md` R63): a failing check changes nothing (R65). -/
def State.readAt (s : State) (priv : Bool) (a : Addr) : Except FaultCode (Word × State) :=
  match checkAccess s.cfg.wordCount a priv with
  | some k => .error k
  | none => .ok (s.cachedWord a, s.afterLoad a)

/-- Write(a, v, priv) (`20_memory.md` R64): a failing check changes nothing (R65). -/
def State.writeAt (s : State) (priv : Bool) (a : Addr) (v : Word) : Except FaultCode State :=
  match checkAccess s.cfg.wordCount a priv with
  | some k => .error k
  | none => .ok (s.storeWord a v)

/-- The 12-bit address an address value reaches: `v mod 2^12` (`20_memory.md` R61). -/
def addrOf (v : Word) : Addr := v.setWidth 12

/-- `MemRead(v, 1)`, at the current privilege (`00_scope.md` R9). -/
def State.memRead (s : State) (v : Word) : Except FaultCode (Word × State) :=
  s.readAt s.msr.supervisor (addrOf v)

/-- `MemReadP(v, 1)`, privileged. -/
def State.memReadP (s : State) (v : Word) : Except FaultCode (Word × State) := s.readAt true (addrOf v)

/-- `MemWrite(v, 1, w)`, at the current privilege. -/
def State.memWrite (s : State) (v w : Word) : Except FaultCode State :=
  s.writeAt s.msr.supervisor (addrOf v) w

/-- `MemWriteP(v, 1, w)`, privileged. -/
def State.memWriteP (s : State) (v w : Word) : Except FaultCode State := s.writeAt true (addrOf v) w

/-! Device buffers (`10_state.md` R38) -/

/-- The buffer of a device, oldest word first. -/
def State.device (s : State) (dev : BitVec 5) : List Word := s.devices[dev.toFin]

/-- Replace the buffer of a device. -/
def State.setDevice (s : State) (dev : BitVec 5) (q : List Word) : State :=
  { s with devices := s.devices.set dev.toNat q dev.isLt }

/-- `push(dev, v)`: append at the tail. -/
def State.pushDevice (s : State) (dev : BitVec 5) (v : Word) : State := s.setDevice dev (s.device dev ++ [v])

/-! Free values -/

/-- The next free word. -/
def State.draw (s : State) : Word := Config.freeWord s.draws

/-- Count the free values used. -/
def State.drawn (s : State) (n : Nat) : State := { s with draws := s.draws + n }

/-! Faults -/

/-- The code of a fault, as R0 receives it (`60_exceptions.md` R370). -/
def FaultCode.code : FaultCode → Word
  | .protectedAccess => 0
  | .illegalTrapCode => 1
  | .illegalOpcode => 2
  | .beyondLimit => 3

/-- "Exactly one fault kind set per fault event" (`10_state.md` R27). -/
def MFR.only (k : FaultCode) : MFR :=
  { protectedAccess := k = .protectedAccess, illegalTrapCode := k = .illegalTrapCode,
    illegalOpcode := k = .illegalOpcode, beyondLimit := k = .beyondLimit }

/-- FatalStop (`60_exceptions.md` R376): the fatal mark and `running <- 0`; nothing else. -/
def fatalStop (s : State) : State := { s.stopRunning with fatal := true }

/-- Steps 1 and 2 of fault dispatch: the status a dispatched fault leaves (`60_exceptions.md` R372). -/
def MSR.enterFault (m : MSR) : MSR :=
  { m with executingFaultHandler := true, supervisor := true,
           supervisorFault := m.supervisorFault || m.supervisor }

/-- Steps 3 and 4: PC to `M[4]`, R0 to `M[5]`, the code to R0. These privileged accesses cannot fault
(addresses 4 and 5 are below WORD_COUNT), so they are stores without a check (`60_exceptions.md` R372). -/
def saveFault (k : FaultCode) (s : State) : State :=
  ((s.storeWord 4 (s.pc.setWidth 16)).storeWord 5 (s.regs.get .r0)).setReg .r0 k.code

/-- Steps 5 and 6: PC from the vector at address 1, the record discarded, phase 1. -/
def enterHandler (s : State) : State := { ((s.afterLoad 1).setPc (s.cachedWord 1)) with control := .fetch }

/-- FaultDispatch(k) (`60_exceptions.md` R371, R372): the one operation every machine fault goes through.
There is no return instruction beside it: a handler returns in software (R378). -/
def faultDispatch (k : FaultCode) (s : State) : State :=
  if s.msr.executingFaultHandler then fatalStop { s with mfr := MFR.only k }
  else enterHandler (saveFault k { s with mfr := MFR.only k, msr := s.msr.enterFault })

/-! The result of one phase of an instruction -/

/-- How a phase of an instruction ends. -/
inductive PhaseResult where
  /-- The phase completes, with the record's new operand values. -/
  | done (c : Record) (s : State)
  /-- HLT's Execute: the phase completes and the run loop stops here (`46_io_system.md` R343). -/
  | halted (c : Record) (s : State)
  /-- IN's wait: the phase counter is 1 again and the record is discarded (`46_io_system.md` R340). -/
  | restart (s : State)
  /-- The phase raises a machine fault; `s` holds what was done before the raise (`40_control_unit.md` R158). -/
  | raise (k : FaultCode) (s : State)
  /-- The phase refuses (`40_control_unit.md` R148). -/
  | refuse (r : RefuseReason) (s : State)
  deriving DecidableEq, Repr

/-- Go on with the next part of the same phase if this part completed. -/
def PhaseResult.andThen (p : PhaseResult) (f : Record → State → PhaseResult) : PhaseResult :=
  match p with
  | .done c s => f c s
  | r => r

/-- The state after a phase: a completed phase moves the phase counter, a raise is dispatched in the same
step, a refusal sets the mark (`40_control_unit.md` R140, R158). -/
def settle (next : Record → Control) : PhaseResult → State
  | .done c s => s.setControl (next c)
  | .halted c s => s.setControl (next c)
  | .restart s => s.setControl .fetch
  | .raise k s => faultDispatch k s
  | .refuse r s => s.refuse r

/-- What an instruction does in its phases (`00_scope.md` R11): `of` Operand Fetch, `ex` Execute, `rs`
Result Store. A phase not given only advances the phase counter. -/
structure Body where
  /-- A refusal in Decode (`40_control_unit.md` R145). -/
  refusal : Option RefuseReason := none
  of : Record → State → PhaseResult := .done
  ex : Record → State → PhaseResult := .done
  rs : Record → State → PhaseResult := .done

/-- The record Decode constructs, with the faulted mark (`40_control_unit.md` R144, R146). OPND, the condition, V and
F are 0 and false until a phase produces them: DESIGN CHOICE, log entry 19. -/
def Record.new (i : Instr) : Record :=
  { instr := i, faulted := !i.wellFormed, opnd := 0, take := false, value := 0, selector := 0 }

/-- Execute of a faulted instruction does nothing (`40_control_unit.md` R147). -/
def executePhase (b : Body) (c : Record) (s : State) : PhaseResult :=
  if c.faulted then .done c s else b.ex c s

/-- Result Store of a faulted instruction does nothing (`40_control_unit.md` R147). -/
def storePhase (b : Body) (c : Record) (s : State) : PhaseResult :=
  if c.faulted then .done c s else b.rs c s

/-- From Result Store to the end of the instruction; the record is discarded (`40_control_unit.md` R153). -/
def runStore (b : Body) (c : Record) (s : State) : State := settle (fun _ => .fetch) (storePhase b c s)

/-- From Execute to the end of the instruction (`40_control_unit.md` R152). -/
def runExecute (b : Body) (c : Record) (s : State) : State :=
  match executePhase b c s with
  | .done c' s' => runStore b c' (s'.setControl (.resultStore c'))
  | r => settle .resultStore r

/-- From Operand Fetch to the end of the instruction (`40_control_unit.md` R149). -/
def runOperandFetch (b : Body) (c : Record) (s : State) : State :=
  match b.of c s with
  | .done c' s' => runExecute b c' (s'.setControl (.execute c'))
  | r => settle .execute r

/-- Decode's part for an instruction the opcode map names (`40_control_unit.md` R144 to R146): refused,
or the record constructed. -/
def decodeInto (b : Body) (i : Instr) (s : State) : State :=
  match b.refusal with
  | some r => s.refuse r
  | none => s.setControl (.operandFetch (Record.new i))

/-- A whole instruction from its Decode on: what the five phases leave (`40_control_unit.md` R140). -/
def perform (b : Body) (i : Instr) (s : State) : State :=
  match b.refusal with
  | some _ => decodeInto b i s
  | none => runOperandFetch b (Record.new i) (decodeInto b i s)

end Sys2Proof.Machine
end

