-- ==== Sys2Proof/Machine/Flags.lean ====
section
/-! DEFINITION. The condition code of every ALU and FPU operation: each writes all five flags, 0 where the
rule names none (`43_arith_logic.md` R230). -/

namespace Sys2Proof.Machine

/-- All five flags 0: And, Or, Not (`43_arith_logic.md` R237 to R239), shifts and rotates
(`44_shift_rotate.md` R284), fixed to float (`45_floating_vector.md` R307). -/
def CC.clear : CC := { ov := false, un := false, dz := false, eq := false, gt := false }

/-- Add: OV when the exact sum is above ADD_OVERFLOW_LIMIT (`43_arith_logic.md` R231). -/
def addFlags (limit : Nat) (a b : Word) : CC := { CC.clear with ov := limit < a.toNat + b.toNat }

/-- Subtract: UN when A < B unsigned (`43_arith_logic.md` R232). -/
def subtractFlags (a b : Word) : CC := { CC.clear with un := a.toNat < b.toNat }

/-- Multiply: OV when the product is above 0xFFFF (`43_arith_logic.md` R233). -/
def multiplyFlags (a b : Word) : CC := { CC.clear with ov := 0xFFFF < a.toNat * b.toNat }

/-- Divide: DZ when B = 0 (`43_arith_logic.md` R234). -/
def divideFlags (b : Word) : CC := { CC.clear with dz := b = 0 }

/-- Compare: EQ, and GT unsigned (`43_arith_logic.md` R235). -/
def compareFlags (a b : Word) : CC := { CC.clear with eq := a = b, gt := b.toNat < a.toNat }

/-- DecCompare: UN when A < 1; the result against 0 (`43_arith_logic.md` R236). -/
def decCompareFlags (a : Word) : CC :=
  { CC.clear with un := a.toNat < 1, eq := a - 1 = 0, gt := 0 < (a - 1).toNat }

/-- The FPU's one flag, OV (`45_floating_vector.md` R305, R306). -/
def overflowFlags (ov : Bool) : CC := { CC.clear with ov := ov }

/-- The flag JCC's selector names; GT cannot be selected (`42_transfer.md` R202). -/
def CC.selected (c : CC) : CcSelector → Bool
  | .overflow => c.ov
  | .underflow => c.un
  | .divideByZero => c.dz
  | .equal => c.eq

end Sys2Proof.Machine
end

