-- ==== Sys2Proof/Machine/Alu.lean ====
section
/-! DEFINITION. The ALU's operations on its latches (`43_arith_logic.md` R230 to R239) and the shift and
rotate functions (`44_shift_rotate.md` R280 to R283). Which latches an operation overwrites: log entry 9. -/

namespace Sys2Proof.Machine

/-- One ALU operation is one atomic change of the latches and of all five flags (`43_arith_logic.md` R230). -/
def State.aluStep (s : State) (l : AluLatches) (f : CC) : State := { s with alu := l, cc := f }

/-- Add: `Y <- A + B`, exact (`43_arith_logic.md` R231). -/
def State.aluAdd (s : State) (a b : Word) : State :=
  s.aluStep { s.alu with a := a, b := b, y := BitVec.ofNat 32 (a.toNat + b.toNat) }
    (addFlags s.cfg.addOverflowLimit a b)

/-- Subtract: `Y <- (A - B) mod 2^16` (`43_arith_logic.md` R232). -/
def State.aluSubtract (s : State) (a b : Word) : State :=
  s.aluStep { s.alu with a := a, b := b, y := (a - b).setWidth 32 } (subtractFlags a b)

/-- Multiply: `Y <- A * B`, exact (`43_arith_logic.md` R233). -/
def State.aluMultiply (s : State) (a b : Word) : State :=
  s.aluStep { s.alu with a := a, b := b, y := BitVec.ofNat 32 (a.toNat * b.toNat) } (multiplyFlags a b)

/-- Divide: quotient and remainder; by zero, two freshly drawn words, and no fault
(`43_arith_logic.md` R234, R246). -/
def State.aluDivide (s : State) (a b : Word) : State :=
  if b = 0 then
    (s.aluStep { a := a, b := b, y := s.draw.setWidth 32, y2 := (s.drawn 1).draw.setWidth 32 }
      (divideFlags b)).drawn 2
  else
    s.aluStep { a := a, b := b, y := BitVec.ofNat 32 (a.toNat / b.toNat),
                y2 := BitVec.ofNat 32 (a.toNat % b.toNat) } (divideFlags b)

/-- Compare: no Y (`43_arith_logic.md` R235). -/
def State.aluCompare (s : State) (a b : Word) : State :=
  s.aluStep { s.alu with a := a, b := b } (compareFlags a b)

/-- DecCompare: `Y <- (A - 1) mod 2^16` (`43_arith_logic.md` R236). -/
def State.aluDecCompare (s : State) (a : Word) : State :=
  s.aluStep { s.alu with a := a, y := (a - 1).setWidth 32 } (decCompareFlags a)

/-- And (`43_arith_logic.md` R237). -/
def State.aluAnd (s : State) (a b : Word) : State :=
  s.aluStep { s.alu with a := a, b := b, y := (a &&& b).setWidth 32 } CC.clear

/-- Or (`43_arith_logic.md` R238). -/
def State.aluOr (s : State) (a b : Word) : State :=
  s.aluStep { s.alu with a := a, b := b, y := (a ||| b).setWidth 32 } CC.clear

/-- Not (`43_arith_logic.md` R239). -/
def State.aluNot (s : State) (a : Word) : State :=
  s.aluStep { s.alu with a := a, y := (~~~a).setWidth 32 } CC.clear

/-- A shift or rotate whose result is `y` (`44_shift_rotate.md` R284). -/
def State.aluShift (s : State) (a y : Word) : State :=
  s.aluStep { s.alu with a := a, y := y.setWidth 32 } CC.clear

/-- What a 16-bit register receives of Y: `Y mod 2^16` (`10_state.md` R31). -/
def State.aluResult (s : State) : Word := s.alu.y.setWidth 16

/-- Shifts (`44_shift_rotate.md` R281). `al` true is logical, `lr` true is left, `keep` is
ASL_PRESERVES_SIGN. -/
def shiftWord (keep : Bool) (al lr : Bool) (n : Nat) (a : Word) : Word :=
  match al, lr with
  | true, true => a <<< n
  | true, false => a >>> n
  | false, false => a.sshiftRight n
  | false, true => if keep then (a &&& 0x8000) ||| ((a <<< n) &&& 0x7FFF) else a <<< n

/-- Logical rotation of all 16 bits (`44_shift_rotate.md` R282). -/
def rotateLogical (lr : Bool) (n : Nat) (a : Word) : Word :=
  if n = 0 then a
  else if lr then (a <<< n) ||| (a >>> (16 - n))
  else (a >>> n) ||| (a <<< (16 - n))

/-- Rotation by `k` positions within a 15-bit field (`44_shift_rotate.md` R283). -/
def rotateLow (lr : Bool) (k : Nat) (l : BitVec 15) : BitVec 15 :=
  if k = 0 then l
  else if lr then (l <<< k) ||| (l >>> (15 - k))
  else (l >>> k) ||| (l <<< (15 - k))

/-- Arithmetic rotation: the sign bit kept, the other 15 bits rotated by `n mod 15`
(`44_shift_rotate.md` R283). -/
def rotateArithmetic (lr : Bool) (n : Nat) (a : Word) : Word :=
  BitVec.ofBool (a.getLsbD 15) ++ rotateLow lr (n % 15) (a.setWidth 15)

/-- Rotates (`44_shift_rotate.md` R282, R283). -/
def rotateWord (al lr : Bool) (n : Nat) (a : Word) : Word :=
  if al then rotateLogical lr n a else rotateArithmetic lr n a

end Sys2Proof.Machine
end

