-- ==== Sys2Proof/Machine/Operands.lean ====
section
/-! DEFINITION. The operand forms: effective address, indirection, the memory operand, the store. -/

namespace Sys2Proof.Machine

/-- `ea0 = ((indexed ? X[IX] : 0) + ADDR) mod 2^16`, ADDR zero-extended (`40_control_unit.md` R150,
`30_encoding.md` R109). -/
def State.directEa (s : State) (indexed : Bool) (x : IndexId) (addr : BitVec 5) : Word :=
  (if indexed then s.index.get x else 0) + addr.setWidth 16

/-- EffectiveAddress(indexed): the address into IAR, read once through memory when I = 1
(`40_control_unit.md` R150). -/
def formEa (indexed : Bool) (x : IndexId) (ind : Bool) (addr : BitVec 5) (c : Record) (s : State) :
    PhaseResult :=
  if ind then
    match s.memRead (s.directEa indexed x addr) with
    | .error k => .raise k s
    | .ok (p, s') => .done c { s' with iar := p }
  else .done c { s with iar := s.directEa indexed x addr }

/-- `OPND <- MemRead(ea, 1)` into the record (`40_control_unit.md` R151). -/
def readOperand (c : Record) (s : State) : PhaseResult :=
  match s.memRead s.iar with
  | .error k => .raise k s
  | .ok (v, s') => .done { c with opnd := v } s'

/-- The Operand Fetch of an instruction that reads a memory operand (`40_control_unit.md` R151). -/
def fetchOperand (indexed : Bool) (x : IndexId) (ind : Bool) (addr : BitVec 5) (c : Record) (s : State) :
    PhaseResult :=
  (formEa indexed x ind addr c s).andThen readOperand

/-- `MemWrite(ea, 1, v)`, the Result Store of STR, STX and STFR (`40_control_unit.md` R151). -/
def storeOperand (v : Word) (c : Record) (s : State) : PhaseResult :=
  match s.memWrite s.iar v with
  | .error k => .raise k s
  | .ok s' => .done c s'

end Sys2Proof.Machine
end

