-- ==== Sys2Proof/Machine/Arithmetic.lean ====
section
/-! DEFINITION. Arithmetic, logical, shift and rotate instructions (`43_arith_logic.md` R240 to R250,
`44_shift_rotate.md` R285, R286). -/

namespace Sys2Proof.Machine

/-- The Result Store `R[r] <- Y mod 2^16` (`10_state.md` R31). -/
def storeAlu (r : RegId) (c : Record) (s : State) : PhaseResult := .done c (s.setReg r s.aluResult)

/-- AMR (`43_arith_logic.md` R240). -/
def amrBody (r : RegId) (x : IndexId) (ind : Bool) (addr : BitVec 5) : Body :=
  { of := fetchOperand true x ind addr
    ex := fun c s => .done c (s.aluAdd (s.regs.get r) c.opnd)
    rs := storeAlu r }

/-- SMR (`43_arith_logic.md` R241). -/
def smrBody (r : RegId) (x : IndexId) (ind : Bool) (addr : BitVec 5) : Body :=
  { of := fetchOperand true x ind addr
    ex := fun c s => .done c (s.aluSubtract (s.regs.get r) c.opnd)
    rs := storeAlu r }

/-- AIR: a zero immediate is a no-op, CC included (`43_arith_logic.md` R242). -/
def airBody (r : RegId) (imm : BitVec 5) : Body :=
  { ex := fun c s => if imm = 0 then .done c s else .done c (s.aluAdd (s.regs.get r) (imm.setWidth 16))
    rs := fun c s => if imm = 0 then .done c s else storeAlu r c s }

/-- SIR: a zero immediate is a no-op, CC included (`43_arith_logic.md` R243). -/
def sirBody (r : RegId) (imm : BitVec 5) : Body :=
  { ex := fun c s => if imm = 0 then .done c s else .done c (s.aluSubtract (s.regs.get r) (imm.setWidth 16))
    rs := fun c s => if imm = 0 then .done c s else storeAlu r c s }

/-- MLT: the high half of the product to `R[rx]`, the low half to `R[rx+1]` (`43_arith_logic.md` R244). -/
def mltBody (rx ry : RegId) : Body :=
  { ex := fun c s => .done c (s.aluMultiply (s.regs.get rx) (s.regs.get ry))
    rs := fun c s => .done c ((s.setReg rx (s.alu.y.extractLsb' 16 16)).setReg (nextReg rx) (s.alu.y.extractLsb' 0 16)) }

/-- DVD: the quotient to `R[rx]`, the remainder to `R[rx+1]` (`43_arith_logic.md` R245). -/
def dvdBody (rx ry : RegId) : Body :=
  { ex := fun c s => .done c (s.aluDivide (s.regs.get rx) (s.regs.get ry))
    rs := fun c s => .done c ((s.setReg rx (s.alu.y.setWidth 16)).setReg (nextReg rx) (s.alu.y2.setWidth 16)) }

/-- TRR: flags only (`43_arith_logic.md` R247). -/
def trrBody (rx ry : RegId) : Body :=
  { ex := fun c s => .done c (s.aluCompare (s.regs.get rx) (s.regs.get ry)) }

/-- AND (`43_arith_logic.md` R248). -/
def andBody (rx ry : RegId) : Body :=
  { ex := fun c s => .done c (s.aluAnd (s.regs.get rx) (s.regs.get ry))
    rs := storeAlu rx }

/-- ORR (`43_arith_logic.md` R249). -/
def orrBody (rx ry : RegId) : Body :=
  { ex := fun c s => .done c (s.aluOr (s.regs.get rx) (s.regs.get ry))
    rs := storeAlu rx }

/-- NOT (`43_arith_logic.md` R250). -/
def notBody (rx : RegId) : Body :=
  { ex := fun c s => .done c (s.aluNot (s.regs.get rx))
    rs := storeAlu rx }

/-- SRC; the 4-bit count is already modulo 16 (`44_shift_rotate.md` R280, R285). -/
def srcBody (r : RegId) (al lr : Bool) (count : BitVec 4) : Body :=
  { ex := fun c s =>
      .done c (s.aluShift (s.regs.get r) (shiftWord s.cfg.aslPreservesSign al lr count.toNat (s.regs.get r)))
    rs := storeAlu r }

/-- RRC (`44_shift_rotate.md` R286). -/
def rrcBody (r : RegId) (al lr : Bool) (count : BitVec 4) : Body :=
  { ex := fun c s => .done c (s.aluShift (s.regs.get r) (rotateWord al lr count.toNat (s.regs.get r)))
    rs := storeAlu r }

/-- The meaning of AMR (`43_arith_logic.md` R240). -/
def execAmr (r : RegId) (x : IndexId) (ind : Bool) (addr : BitVec 5) (s : State) :
    Host.Outcome State Fault Refusal :=
  .next (perform (amrBody r x ind addr) (.amr r x ind addr) s)

/-- The meaning of SMR (`43_arith_logic.md` R241). -/
def execSmr (r : RegId) (x : IndexId) (ind : Bool) (addr : BitVec 5) (s : State) :
    Host.Outcome State Fault Refusal :=
  .next (perform (smrBody r x ind addr) (.smr r x ind addr) s)

/-- The meaning of AIR (`43_arith_logic.md` R242). -/
def execAir (r : RegId) (imm : BitVec 5) (s : State) : Host.Outcome State Fault Refusal :=
  .next (perform (airBody r imm) (.air r imm) s)

/-- The meaning of SIR (`43_arith_logic.md` R243). -/
def execSir (r : RegId) (imm : BitVec 5) (s : State) : Host.Outcome State Fault Refusal :=
  .next (perform (sirBody r imm) (.sir r imm) s)

/-- The meaning of MLT (`43_arith_logic.md` R244). -/
def execMlt (rx ry : RegId) (s : State) : Host.Outcome State Fault Refusal :=
  .next (perform (mltBody rx ry) (.mlt rx ry) s)

/-- The meaning of DVD (`43_arith_logic.md` R245). -/
def execDvd (rx ry : RegId) (s : State) : Host.Outcome State Fault Refusal :=
  .next (perform (dvdBody rx ry) (.dvd rx ry) s)

/-- The meaning of TRR (`43_arith_logic.md` R247). -/
def execTrr (rx ry : RegId) (s : State) : Host.Outcome State Fault Refusal :=
  .next (perform (trrBody rx ry) (.trr rx ry) s)

/-- The meaning of AND (`43_arith_logic.md` R248). -/
def execAnd (rx ry : RegId) (s : State) : Host.Outcome State Fault Refusal :=
  .next (perform (andBody rx ry) (.and rx ry) s)

/-- The meaning of ORR (`43_arith_logic.md` R249). -/
def execOrr (rx ry : RegId) (s : State) : Host.Outcome State Fault Refusal :=
  .next (perform (orrBody rx ry) (.orr rx ry) s)

/-- The meaning of NOT (`43_arith_logic.md` R250). -/
def execNot (rx : RegId) (s : State) : Host.Outcome State Fault Refusal :=
  .next (perform (notBody rx) (.not rx) s)

/-- The meaning of SRC (`44_shift_rotate.md` R285). -/
def execSrc (r : RegId) (al lr : Bool) (count : BitVec 4) (s : State) : Host.Outcome State Fault Refusal :=
  .next (perform (srcBody r al lr count) (.src r al lr count) s)

/-- The meaning of RRC (`44_shift_rotate.md` R286). -/
def execRrc (r : RegId) (al lr : Bool) (count : BitVec 4) (s : State) : Host.Outcome State Fault Refusal :=
  .next (perform (rrcBody r al lr count) (.rrc r al lr count) s)

end Sys2Proof.Machine
end

