-- ==== Sys2Proof/Machine/Fpu.lean ====
section
/-! DEFINITION. The FPU over the packed format (`45_floating_vector.md` R300 to R307), computed on exact
integers and narrowed at the end. -/

namespace Sys2Proof.Machine

/-- The sign field, bit 15 (`45_floating_vector.md` R300). -/
def floatSign (w : Word) : Bool := w.getLsbD 15

/-- The signed exponent E: `-e` when `es = 1`, else `e` (`45_floating_vector.md` R301). -/
def floatExponent (w : Word) : Int :=
  if w.getLsbD 14 then -((w.extractLsb' 8 6).toNat : Int) else ((w.extractLsb' 8 6).toNat : Int)

/-- The mantissa, an unsigned integer (`45_floating_vector.md` R301). -/
def floatMantissa (w : Word) : Nat := (w.extractLsb' 0 8).toNat

/-- Compose(s, E, m) (`45_floating_vector.md` R302). -/
def compose (sign : Bool) (e : Int) (m : Nat) : Word :=
  BitVec.ofBool sign ++ BitVec.ofBool (decide (e < 0)) ++ BitVec.ofNat 6 e.natAbs ++ BitVec.ofNat 8 m

/-- `(-1)^s * m`. -/
def signed (sign : Bool) (m : Nat) : Int := if sign then -(m : Int) else (m : Int)

/-- Step (5) of FAddSub: shift the mantissa right until it fits 8 bits; an exponent above 63 saturates
(`45_floating_vector.md` R303, R304). Answers exponent, mantissa, OV. The first argument bounds the
iterations; a magnitude below `2^(8 + fuel)` needs no more than `fuel`. -/
def fitMantissa : Nat → Int → Nat → Int × Nat × Bool
  | 0, e, mag => (e, mag, false)
  | fuel + 1, e, mag =>
    if mag ≤ 255 then (e, mag, false)
    else if e = 63 then (e, 255, true)
    else fitMantissa fuel (e + 1) (mag >>> 1)

/-- FAddSub(a, b, op) on packed words: the result and OV (`45_floating_vector.md` R303 to R305). The
magnitude is at most 510, so one iteration of step (5) is the most it takes. -/
def fAddSub (subtract : Bool) (a b : Word) : Word × Bool :=
  let ea := floatExponent a
  let eb := floatExponent b
  let ma := if ea < eb then floatMantissa a >>> (eb - ea).toNat else floatMantissa a
  let mb := if eb < ea then floatMantissa b >>> (ea - eb).toNat else floatMantissa b
  let e := if ea < eb then eb else ea
  let va := signed (floatSign a) ma
  let vb := signed (floatSign b) mb
  let r := if subtract then va - vb else va + vb
  let fit := fitMantissa 8 e r.natAbs
  (compose (decide (r < 0)) fit.1 fit.2.1, fit.2.2)

/-- FloatToFixed(w): rounded half away from zero, OV outside 16-bit two's complement, the result wrapped
(`45_floating_vector.md` R306). -/
def floatToFixed (w : Word) : Word × Bool :=
  let e := floatExponent w
  let m := floatMantissa w
  let mag := if 0 ≤ e then m <<< e.toNat else (m + 2 ^ ((-e).toNat - 1)) >>> (-e).toNat
  let v := signed (floatSign w) mag
  (BitVec.ofInt 16 v, decide (¬(-32768 ≤ v ∧ v ≤ 32767)))

/-- The loop of FixedToFloat: the smallest exponent whose rounded mantissa fits 8 bits
(`45_floating_vector.md` R307). The first argument bounds the iterations. -/
def fitFixed (mag : Nat) : Nat → Nat → Nat → Nat × Nat
  | 0, e, q => (e, q)
  | fuel + 1, e, q => if q ≤ 255 then (e, q) else fitFixed mag fuel (e + 1) ((mag + 2 ^ e) >>> (e + 1))

/-- FixedToFloat(w) (`45_floating_vector.md` R307). A magnitude of at most 32768 needs 8 iterations. -/
def fixedToFloat (w : Word) : Word :=
  let v := w.toInt
  let fit := fitFixed v.natAbs 16 0 v.natAbs
  compose (decide (v < 0)) fit.1 fit.2

/-- An FPU add or subtract: input latches, result latch, all five flags (`45_floating_vector.md` R305). -/
def State.fpuAddSub (s : State) (subtract : Bool) (a b : Word) : State :=
  { s with fpu := { a := a, b := b, y := (fAddSub subtract a b).1 },
           cc := overflowFlags (fAddSub subtract a b).2 }

/-- An FPU conversion to fixed point (`45_floating_vector.md` R306). -/
def State.fpuToFixed (s : State) (a : Word) : State :=
  { s with fpu := { s.fpu with a := a, y := (floatToFixed a).1 }, cc := overflowFlags (floatToFixed a).2 }

/-- An FPU conversion to floating point (`45_floating_vector.md` R307). -/
def State.fpuToFloat (s : State) (a : Word) : State :=
  { s with fpu := { s.fpu with a := a, y := fixedToFloat a }, cc := CC.clear }

end Sys2Proof.Machine
end

