-- ==== Sys2Proof/Machine/Float.lean ====
section
/-! DEFINITION. Floating-point and vector instructions (`45_floating_vector.md` R308 to R312). -/

namespace Sys2Proof.Machine

/-- FADD and FSUB: `FR[fr] <- FAddSub(FR[fr], OPND, op)` (`45_floating_vector.md` R308, R309). An illegal
`fr` selects no register, and its Execute and Result Store do nothing. -/
def floatBody (subtract : Bool) (fr : FloatId) (x : IndexId) (ind : Bool) (addr : BitVec 5) : Body :=
  { of := fetchOperand true x ind addr
    ex := fun c s =>
      match fr.reg? with
      | some f => .done c (s.fpuAddSub subtract (s.fregs.get f) c.opnd)
      | none => .done c s
    rs := fun c s =>
      match fr.reg? with
      | some f => .done c (s.setFloat f s.fpu.y)
      | none => .done c s }

/-- FADD (`45_floating_vector.md` R308). -/
def faddBody (fr : FloatId) (x : IndexId) (ind : Bool) (addr : BitVec 5) : Body := floatBody false fr x ind addr

/-- FSUB (`45_floating_vector.md` R309). -/
def fsubBody (fr : FloatId) (x : IndexId) (ind : Bool) (addr : BitVec 5) : Body := floatBody true fr x ind addr

/-- VADD and VSUB: refused at Decode; no phase of theirs runs (`45_floating_vector.md` R310, R311). -/
def vectorBody : Body :=
  { refusal := some .vectorUnspecified
    of := fun _ s => .refuse .vectorUnspecified s
    ex := fun _ s => .refuse .vectorUnspecified s
    rs := fun _ s => .refuse .vectorUnspecified s }

/-- VADD (`45_floating_vector.md` R310). -/
def vaddBody : Body := vectorBody

/-- VSUB (`45_floating_vector.md` R311). -/
def vsubBody : Body := vectorBody

/-- CNVRT: the selector F = R[r] chooses the direction; another selector is refused in Execute
(`45_floating_vector.md` R312). The refusal leaves the record as Operand Fetch left it, without F: DESIGN CHOICE,
log entry 18. -/
def cnvrtBody (r : RegId) (x : IndexId) (ind : Bool) (addr : BitVec 5) : Body :=
  { of := fetchOperand true x ind addr
    ex := fun c s =>
      if s.regs.get r = 0 then
        .done { c with selector := s.regs.get r, value := (floatToFixed c.opnd).1 } (s.fpuToFixed c.opnd)
      else if s.regs.get r = 1 then
        .done { c with selector := s.regs.get r, value := fixedToFloat c.opnd } (s.fpuToFloat c.opnd)
      else .refuse .convertSelector s
    rs := fun c s =>
      if c.selector = 0 then .done c (s.setReg r c.value) else .done c (s.setFloat .fr0 c.value) }

/-- The meaning of FADD (`45_floating_vector.md` R308). -/
def execFadd (fr : FloatId) (x : IndexId) (ind : Bool) (addr : BitVec 5) (s : State) :
    Host.Outcome State Fault Refusal :=
  .next (perform (faddBody fr x ind addr) (.fadd fr x ind addr) s)

/-- The meaning of FSUB (`45_floating_vector.md` R309). -/
def execFsub (fr : FloatId) (x : IndexId) (ind : Bool) (addr : BitVec 5) (s : State) :
    Host.Outcome State Fault Refusal :=
  .next (perform (fsubBody fr x ind addr) (.fsub fr x ind addr) s)

/-- The meaning of VADD: the refused mark, `VectorUnspecified`; the next step is refused
(`45_floating_vector.md` R310). -/
def execVadd (fr : FloatId) (x : IndexId) (ind : Bool) (addr : BitVec 5) (s : State) :
    Host.Outcome State Fault Refusal :=
  .next (perform vaddBody (.vadd fr x ind addr) s)

/-- The meaning of VSUB: the refused mark, `VectorUnspecified`; the next step is refused
(`45_floating_vector.md` R311). -/
def execVsub (fr : FloatId) (x : IndexId) (ind : Bool) (addr : BitVec 5) (s : State) :
    Host.Outcome State Fault Refusal :=
  .next (perform vsubBody (.vsub fr x ind addr) s)

/-- The meaning of CNVRT (`45_floating_vector.md` R312). -/
def execCnvrt (r : RegId) (x : IndexId) (ind : Bool) (addr : BitVec 5) (s : State) :
    Host.Outcome State Fault Refusal :=
  .next (perform (cnvrtBody r x ind addr) (.cnvrt r x ind addr) s)

end Sys2Proof.Machine
end

