-- ==== Sys2Proof/Machine/LoadStore.lean ====
section
/-! DEFINITION. Load and store instructions (`41_load_store.md` R180 to R186). None writes CC. -/

namespace Sys2Proof.Machine

/-- LDR (`41_load_store.md` R180). -/
def ldrBody (r : RegId) (x : IndexId) (ind : Bool) (addr : BitVec 5) : Body :=
  { of := fetchOperand true x ind addr
    rs := fun c s => .done c (s.setReg r c.opnd) }

/-- STR (`41_load_store.md` R181). -/
def strBody (r : RegId) (x : IndexId) (ind : Bool) (addr : BitVec 5) : Body :=
  { of := formEa true x ind addr
    rs := fun c s => storeOperand (s.regs.get r) c s }

/-- LDA: the 16-bit effective address, no memory read of its own (`41_load_store.md` R182). -/
def ldaBody (r : RegId) (x : IndexId) (ind : Bool) (addr : BitVec 5) : Body :=
  { of := formEa true x ind addr
    rs := fun c s => .done c (s.setReg r s.iar) }

/-- LDX: indexed only under LDX_EA_INDEXED (`41_load_store.md` R183). -/
def ldxBody (x : IndexId) (ind : Bool) (addr : BitVec 5) : Body :=
  { of := fun c s => fetchOperand s.cfg.ldxEaIndexed x ind addr c s
    rs := fun c s => .done c (s.setIndex x c.opnd) }

/-- STX: indexed only under LDX_EA_INDEXED (`41_load_store.md` R184). -/
def stxBody (x : IndexId) (ind : Bool) (addr : BitVec 5) : Body :=
  { of := fun c s => formEa s.cfg.ldxEaIndexed x ind addr c s
    rs := fun c s => storeOperand (s.index.get x) c s }

/-- LDFR: the packed word, bit for bit (`41_load_store.md` R185). -/
def ldfrBody (fr : FloatId) (x : IndexId) (ind : Bool) (addr : BitVec 5) : Body :=
  { of := fetchOperand true x ind addr
    rs := fun c s =>
      match fr.reg? with
      | some f => .done c (s.setFloat f c.opnd)
      | none => .done c s }

/-- STFR (`41_load_store.md` R186). -/
def stfrBody (fr : FloatId) (x : IndexId) (ind : Bool) (addr : BitVec 5) : Body :=
  { of := formEa true x ind addr
    rs := fun c s =>
      match fr.reg? with
      | some f => storeOperand (s.fregs.get f) c s
      | none => .done c s }

/-- The meaning of LDR (`41_load_store.md` R180). -/
def execLdr (r : RegId) (x : IndexId) (ind : Bool) (addr : BitVec 5) (s : State) :
    Host.Outcome State Fault Refusal :=
  .next (perform (ldrBody r x ind addr) (.ldr r x ind addr) s)

/-- The meaning of STR (`41_load_store.md` R181). -/
def execStr (r : RegId) (x : IndexId) (ind : Bool) (addr : BitVec 5) (s : State) :
    Host.Outcome State Fault Refusal :=
  .next (perform (strBody r x ind addr) (.str r x ind addr) s)

/-- The meaning of LDA (`41_load_store.md` R182). -/
def execLda (r : RegId) (x : IndexId) (ind : Bool) (addr : BitVec 5) (s : State) :
    Host.Outcome State Fault Refusal :=
  .next (perform (ldaBody r x ind addr) (.lda r x ind addr) s)

/-- The meaning of LDX (`41_load_store.md` R183). -/
def execLdx (x : IndexId) (ind : Bool) (addr : BitVec 5) (s : State) : Host.Outcome State Fault Refusal :=
  .next (perform (ldxBody x ind addr) (.ldx x ind addr) s)

/-- The meaning of STX (`41_load_store.md` R184). -/
def execStx (x : IndexId) (ind : Bool) (addr : BitVec 5) (s : State) : Host.Outcome State Fault Refusal :=
  .next (perform (stxBody x ind addr) (.stx x ind addr) s)

/-- The meaning of LDFR (`41_load_store.md` R185). -/
def execLdfr (fr : FloatId) (x : IndexId) (ind : Bool) (addr : BitVec 5) (s : State) :
    Host.Outcome State Fault Refusal :=
  .next (perform (ldfrBody fr x ind addr) (.ldfr fr x ind addr) s)

/-- The meaning of STFR (`41_load_store.md` R186). -/
def execStfr (fr : FloatId) (x : IndexId) (ind : Bool) (addr : BitVec 5) (s : State) :
    Host.Outcome State Fault Refusal :=
  .next (perform (stfrBody fr x ind addr) (.stfr fr x ind addr) s)

end Sys2Proof.Machine
end

