-- ==== Sys2Proof/Machine/System.lean ====
section
/-! DEFINITION. Input/output, halt and trap instructions (`46_io_system.md` R340 to R343, R350). None
writes CC. -/

namespace Sys2Proof.Machine

/-- IN finds its buffer empty: the wait flag, `running <- 0`, PC back at the IN, phase 1
(`46_io_system.md` R340). -/
def State.waitForInput (s : State) (dev : BitVec 5) : State :=
  let m := s.msr
  { s with
    msr := if dev = 2 then { m with waitingForCard := true, running := false }
           else { m with readyForInput := true, running := false }
    pc := s.pc - 1 }

/-- IN (`46_io_system.md` R340). -/
def inpBody (r : RegId) (dev : BitVec 5) : Body :=
  { ex := fun c s =>
      match s.device dev with
      | [] => .restart (s.waitForInput dev)
      | v :: rest => .done { c with value := v } (s.setDevice dev rest)
    rs := fun c s => .done c (s.setReg r c.value) }

/-- OUT (`46_io_system.md` R341). -/
def outBody (r : RegId) (dev : BitVec 5) : Body :=
  { ex := fun c s => .done c (s.pushDevice dev (s.regs.get r)) }

/-- CHK: the device's status word under CHK_MODE; never pops (`46_io_system.md` R342). -/
def chkBody (r : RegId) (dev : BitVec 5) : Body :=
  { ex := fun c s =>
      match s.cfg.chkMode with
      | .nonEmptyBit => .done { c with value := if s.device dev = [] then 0 else 1 } s
      | .size => .done { c with value := BitVec.ofNat 16 (s.device dev).length } s
      | .draw => .done { c with value := s.draw } (s.drawn 1)
    rs := fun c s => .done c (s.setReg r c.value) }

/-- HLT: the run loop stops after Execute (`46_io_system.md` R343). -/
def hltBody : Body :=
  { ex := fun c s => .halted c s.stopRunning }

/-- TRAP's own writes: PC to `M[2]`, supervisor mode, PC from the table (`46_io_system.md` R350). -/
def trapEnter (target : Word) (c : Record) (s : State) : PhaseResult :=
  match s.memWriteP 2 (s.pc.setWidth 16) with
  | .error k => .raise k s
  | .ok s' => .done c ({ s' with msr := { s'.msr with supervisor := true } }.setPc target)

/-- TRAP: the reads come before every write (`46_io_system.md` R350). -/
def trapBody (hi : BitVec 6) (code : BitVec 4) : Body :=
  { ex := fun c s =>
      if hi = 0 then
        match s.memReadP 0 with
        | .error k => .raise k s
        | .ok (base, s1) =>
          match s1.memReadP (base + code.setWidth 16) with
          | .error k => .raise k s1
          | .ok (target, s2) => trapEnter target c s2
      else .raise .illegalTrapCode s }

/-- The meaning of IN (`46_io_system.md` R340). -/
def execInp (r : RegId) (dev : BitVec 5) (s : State) : Host.Outcome State Fault Refusal :=
  .next (perform (inpBody r dev) (.inp r dev) s)

/-- The meaning of OUT (`46_io_system.md` R341). -/
def execOut (r : RegId) (dev : BitVec 5) (s : State) : Host.Outcome State Fault Refusal :=
  .next (perform (outBody r dev) (.out r dev) s)

/-- The meaning of CHK (`46_io_system.md` R342). -/
def execChk (r : RegId) (dev : BitVec 5) (s : State) : Host.Outcome State Fault Refusal :=
  .next (perform (chkBody r dev) (.chk r dev) s)

/-- The meaning of HLT (`46_io_system.md` R343). -/
def execHlt (s : State) : Host.Outcome State Fault Refusal :=
  .next (perform hltBody .hlt s)

/-- The meaning of TRAP (`46_io_system.md` R350). -/
def execTrap (hi : BitVec 6) (code : BitVec 4) (s : State) : Host.Outcome State Fault Refusal :=
  .next (perform (trapBody hi code) (.trap hi code) s)

end Sys2Proof.Machine
end

