-- ==== Sys2Proof/Machine/Transfer.lean ====
section
/-! DEFINITION. Transfer of control (`42_transfer.md` R200 to R208). The target is formed in Operand Fetch
whether or not the transfer is taken; a taken transfer writes PC in Result Store. -/

namespace Sys2Proof.Machine

/-- The Result Store of a conditional transfer: `if take: PC <- ea` (`42_transfer.md` R208). -/
def transferIfTaken (c : Record) (s : State) : PhaseResult :=
  if c.take then .done c (s.setPc s.iar) else .done c s

/-- JZ (`42_transfer.md` R200). -/
def jzBody (r : RegId) (x : IndexId) (ind : Bool) (addr : BitVec 5) : Body :=
  { of := formEa true x ind addr
    ex := fun c s => .done { c with take := s.regs.get r = 0 } s
    rs := transferIfTaken }

/-- JNE (`42_transfer.md` R201). -/
def jneBody (r : RegId) (x : IndexId) (ind : Bool) (addr : BitVec 5) : Body :=
  { of := formEa true x ind addr
    ex := fun c s => .done { c with take := s.regs.get r ≠ 0 } s
    rs := transferIfTaken }

/-- JCC (`42_transfer.md` R202). -/
def jccBody (sel : CcSelector) (x : IndexId) (ind : Bool) (addr : BitVec 5) : Body :=
  { of := formEa true x ind addr
    ex := fun c s => .done { c with take := s.cc.selected sel } s
    rs := transferIfTaken }

/-- JMA (`42_transfer.md` R203). -/
def jmaBody (x : IndexId) (ind : Bool) (addr : BitVec 5) : Body :=
  { of := formEa true x ind addr
    rs := fun c s => .done c (s.setPc s.iar) }

/-- JSR: the fetched address plus 1 into R3, then PC (`42_transfer.md` R204). -/
def jsrBody (x : IndexId) (ind : Bool) (addr : BitVec 5) : Body :=
  { of := formEa true x ind addr
    rs := fun c s => .done c ((s.setReg .r3 (s.pc.setWidth 16)).setPc s.iar) }

/-- RFS: the return code into R0 before PC from R3 (`42_transfer.md` R205). -/
def rfsBody (imm : BitVec 5) : Body :=
  { rs := fun c s => .done c ((s.setReg .r0 (imm.setWidth 16)).setPc (s.regs.get .r3)) }

/-- SOB: decrement and compare; branch on GT (`42_transfer.md` R206). -/
def sobBody (r : RegId) (x : IndexId) (ind : Bool) (addr : BitVec 5) : Body :=
  { of := formEa true x ind addr
    ex := fun c s => .done { c with take := (s.aluDecCompare (s.regs.get r)).cc.gt } (s.aluDecCompare (s.regs.get r))
    rs := fun c s => transferIfTaken c (s.setReg r s.aluResult) }

/-- JGE: bit 15 clear (`42_transfer.md` R207). -/
def jgeBody (r : RegId) (x : IndexId) (ind : Bool) (addr : BitVec 5) : Body :=
  { of := formEa true x ind addr
    ex := fun c s => .done { c with take := !(s.regs.get r).getLsbD 15 } s
    rs := transferIfTaken }

/-- The meaning of JZ (`42_transfer.md` R200). -/
def execJz (r : RegId) (x : IndexId) (ind : Bool) (addr : BitVec 5) (s : State) :
    Host.Outcome State Fault Refusal :=
  .next (perform (jzBody r x ind addr) (.jz r x ind addr) s)

/-- The meaning of JNE (`42_transfer.md` R201). -/
def execJne (r : RegId) (x : IndexId) (ind : Bool) (addr : BitVec 5) (s : State) :
    Host.Outcome State Fault Refusal :=
  .next (perform (jneBody r x ind addr) (.jne r x ind addr) s)

/-- The meaning of JCC (`42_transfer.md` R202). -/
def execJcc (sel : CcSelector) (x : IndexId) (ind : Bool) (addr : BitVec 5) (s : State) :
    Host.Outcome State Fault Refusal :=
  .next (perform (jccBody sel x ind addr) (.jcc sel x ind addr) s)

/-- The meaning of JMA (`42_transfer.md` R203). -/
def execJma (x : IndexId) (ind : Bool) (addr : BitVec 5) (s : State) : Host.Outcome State Fault Refusal :=
  .next (perform (jmaBody x ind addr) (.jma x ind addr) s)

/-- The meaning of JSR (`42_transfer.md` R204). -/
def execJsr (x : IndexId) (ind : Bool) (addr : BitVec 5) (s : State) : Host.Outcome State Fault Refusal :=
  .next (perform (jsrBody x ind addr) (.jsr x ind addr) s)

/-- The meaning of RFS (`42_transfer.md` R205). -/
def execRfs (imm : BitVec 5) (s : State) : Host.Outcome State Fault Refusal :=
  .next (perform (rfsBody imm) (.rfs imm) s)

/-- The meaning of SOB (`42_transfer.md` R206). -/
def execSob (r : RegId) (x : IndexId) (ind : Bool) (addr : BitVec 5) (s : State) :
    Host.Outcome State Fault Refusal :=
  .next (perform (sobBody r x ind addr) (.sob r x ind addr) s)

/-- The meaning of JGE (`42_transfer.md` R207). -/
def execJge (r : RegId) (x : IndexId) (ind : Bool) (addr : BitVec 5) (s : State) :
    Host.Outcome State Fault Refusal :=
  .next (perform (jgeBody r x ind addr) (.jge r x ind addr) s)

end Sys2Proof.Machine
end

