-- ==== Sys2Proof/Machine/ControlUnit.lean ====
section
/-! DEFINITION. The control unit: Instruction Fetch, and `tick`, the engine's step of exactly one phase
(`40_control_unit.md` R140). -/

namespace Sys2Proof.Machine

/-- The phases of an instruction, dispatched from the one record (`40_control_unit.md` R144). -/
def bodyOf (i : Instr) : Body :=
  match i with
  | .hlt => hltBody
  | .ldr r x ind addr => ldrBody r x ind addr
  | .str r x ind addr => strBody r x ind addr
  | .lda r x ind addr => ldaBody r x ind addr
  | .amr r x ind addr => amrBody r x ind addr
  | .smr r x ind addr => smrBody r x ind addr
  | .air r imm => airBody r imm
  | .sir r imm => sirBody r imm
  | .jz r x ind addr => jzBody r x ind addr
  | .jne r x ind addr => jneBody r x ind addr
  | .jcc sel x ind addr => jccBody sel x ind addr
  | .jma x ind addr => jmaBody x ind addr
  | .jsr x ind addr => jsrBody x ind addr
  | .rfs imm => rfsBody imm
  | .sob r x ind addr => sobBody r x ind addr
  | .jge r x ind addr => jgeBody r x ind addr
  | .mlt rx ry => mltBody rx ry
  | .dvd rx ry => dvdBody rx ry
  | .trr rx ry => trrBody rx ry
  | .and rx ry => andBody rx ry
  | .orr rx ry => orrBody rx ry
  | .not rx => notBody rx
  | .trap hi code => trapBody hi code
  | .src r al lr count => srcBody r al lr count
  | .rrc r al lr count => rrcBody r al lr count
  | .fadd fr x ind addr => faddBody fr x ind addr
  | .fsub fr x ind addr => fsubBody fr x ind addr
  | .vadd _ _ _ _ => vaddBody
  | .vsub _ _ _ _ => vsubBody
  | .cnvrt r x ind addr => cnvrtBody r x ind addr
  | .ldx x ind addr => ldxBody x ind addr
  | .stx x ind addr => stxBody x ind addr
  | .ldfr fr x ind addr => ldfrBody fr x ind addr
  | .stfr fr x ind addr => stfrBody fr x ind addr
  | .inp r dev => inpBody r dev
  | .out r dev => outBody r dev
  | .chk r dev => chkBody r dev

/-- The state a completed Instruction Fetch leaves: IR, PC advanced mod 2^12, phase 2
(`40_control_unit.md` R142). -/
def State.fetched (s : State) (w : Word) : State := { s with ir := w, pc := s.pc + 1, control := .decode }

/-- Phase 1 (`40_control_unit.md` R141, R142): beyond memory only `running <- 0`; otherwise the word at PC
through memory and cache, which may raise Fault(0) with MAR already written (log entry 14). -/
def fetchPhase (s : State) : State :=
  if s.cfg.wordCount ≤ s.pc.toNat then s.stopRunning
  else
    match s.readAt s.msr.supervisor s.pc with
    | .error k => faultDispatch k { s with mar := s.pc }
    | .ok (w, s') => s'.fetched w

/-- Phase 2 (`40_control_unit.md` R143 to R146). -/
def decodePhase (s : State) : State :=
  match decode s.cfg.opcodeMap s.ir with
  | .ok i => decodeInto (bodyOf i) i s
  | .error _ => faultDispatch .illegalOpcode s

/-- The phase the phase counter names, performed (`40_control_unit.md` R140). -/
def phaseStep (s : State) : State :=
  match s.control with
  | .fetch => fetchPhase s
  | .decode => decodePhase s
  | .operandFetch c => settle .execute ((bodyOf c.instr).of c s)
  | .execute c => settle .resultStore (executePhase (bodyOf c.instr) c s)
  | .resultStore c => settle (fun _ => .fetch) (storePhase (bodyOf c.instr) c s)

/-- Step(): exactly one phase; none while the fatal or the refused mark is set (`40_control_unit.md` R140). -/
def tick (s : State) : Host.Outcome State Fault Refusal :=
  if s.fatal then .fault .fatalStop
  else
    match s.refused with
    | some r => .refused (.marked r)
    | none => .next (phaseStep s)

/-- The rest of the instruction in flight, for the phases after Decode. -/
def finishInstruction (s : State) : State :=
  match s.control with
  | .fetch => s
  | .decode => s
  | .operandFetch c => runOperandFetch (bodyOf c.instr) c s
  | .execute c => runExecute (bodyOf c.instr) c s
  | .resultStore c => runStore (bodyOf c.instr) c s

/-- A word placed at an address with the cached copy kept equal, as the host's bulk load leaves memory and
cache (`70_reset_and_hazards.md` R412). -/
def State.placeWord (s : State) (a : Addr) (w : Word) : State :=
  { s with mem := s.mem.write a.toNat w, cache := cacheUpdate s.cache a w }

/-- Where a program's first instruction can be fetched: PC if a fetch there passes, else address 6, the
first word outside the protected region. Log entry 11. -/
def State.fetchablePc (s : State) : Addr :=
  if s.cfg.wordCount ≤ s.pc.toNat then 6
  else if s.pc.toNat < 6 ∧ s.msr.supervisor = false then 6
  else s.pc

/-- The state in which the next step fetches and runs `w`: the host's loadProgram and setPC at phase 1, with
no mark set that leaves the engine without a step. Log entry 11. -/
def State.withFirstWord (s : State) (w : Word) : State :=
  { s.placeWord s.fetchablePc w with pc := s.fetchablePc, control := .fetch, fatal := false, refused := none }

end Sys2Proof.Machine
end

