-- ==== Sys2Proof/Machine/Dispatch.lean ====
section
/-! DEFINITION. The dispatch: one arm for each instruction, each one call of its meaning. -/

namespace Sys2Proof.Machine

/-- What an instruction does from its Decode to its end (`40_control_unit.md` R140, R144). -/
def exec (i : Instr) (s : State) : Host.Outcome State Fault Refusal :=
  match i with
  | .hlt => Sys2Proof.Machine.execHlt s
  | .ldr r x ind addr => Sys2Proof.Machine.execLdr r x ind addr s
  | .str r x ind addr => Sys2Proof.Machine.execStr r x ind addr s
  | .lda r x ind addr => Sys2Proof.Machine.execLda r x ind addr s
  | .amr r x ind addr => Sys2Proof.Machine.execAmr r x ind addr s
  | .smr r x ind addr => Sys2Proof.Machine.execSmr r x ind addr s
  | .air r imm => Sys2Proof.Machine.execAir r imm s
  | .sir r imm => Sys2Proof.Machine.execSir r imm s
  | .jz r x ind addr => Sys2Proof.Machine.execJz r x ind addr s
  | .jne r x ind addr => Sys2Proof.Machine.execJne r x ind addr s
  | .jcc sel x ind addr => Sys2Proof.Machine.execJcc sel x ind addr s
  | .jma x ind addr => Sys2Proof.Machine.execJma x ind addr s
  | .jsr x ind addr => Sys2Proof.Machine.execJsr x ind addr s
  | .rfs imm => Sys2Proof.Machine.execRfs imm s
  | .sob r x ind addr => Sys2Proof.Machine.execSob r x ind addr s
  | .jge r x ind addr => Sys2Proof.Machine.execJge r x ind addr s
  | .mlt rx ry => Sys2Proof.Machine.execMlt rx ry s
  | .dvd rx ry => Sys2Proof.Machine.execDvd rx ry s
  | .trr rx ry => Sys2Proof.Machine.execTrr rx ry s
  | .and rx ry => Sys2Proof.Machine.execAnd rx ry s
  | .orr rx ry => Sys2Proof.Machine.execOrr rx ry s
  | .not rx => Sys2Proof.Machine.execNot rx s
  | .trap hi code => Sys2Proof.Machine.execTrap hi code s
  | .src r al lr count => Sys2Proof.Machine.execSrc r al lr count s
  | .rrc r al lr count => Sys2Proof.Machine.execRrc r al lr count s
  | .fadd fr x ind addr => Sys2Proof.Machine.execFadd fr x ind addr s
  | .fsub fr x ind addr => Sys2Proof.Machine.execFsub fr x ind addr s
  | .vadd fr x ind addr => Sys2Proof.Machine.execVadd fr x ind addr s
  | .vsub fr x ind addr => Sys2Proof.Machine.execVsub fr x ind addr s
  | .cnvrt r x ind addr => Sys2Proof.Machine.execCnvrt r x ind addr s
  | .ldx x ind addr => Sys2Proof.Machine.execLdx x ind addr s
  | .stx x ind addr => Sys2Proof.Machine.execStx x ind addr s
  | .ldfr fr x ind addr => Sys2Proof.Machine.execLdfr fr x ind addr s
  | .stfr fr x ind addr => Sys2Proof.Machine.execStfr fr x ind addr s
  | .inp r dev => Sys2Proof.Machine.execInp r dev s
  | .out r dev => Sys2Proof.Machine.execOut r dev s
  | .chk r dev => Sys2Proof.Machine.execChk r dev s

end Sys2Proof.Machine
end

