-- ==== Sys2Proof/Machine/HostOps.lean ====
section
/-! DEFINITION. The host's operations, each made only between two ticks (`70_reset_and_hazards.md` R410 to
R416, `40_control_unit.md` R155 to R157). -/

namespace Sys2Proof.Machine

/-- `reset()` (`70_reset_and_hazards.md` R410): every piece of state. The parameters stay, and so does the
model's own counter, so that a later draw is a fresh one (log entry 13). -/
def State.hostReset (s : State) : State := { State.initial s.cfg with draws := s.draws }

/-- The writes of a bulk load, in order: `MemWriteP(address + i, 1, words[i])` (`70_reset_and_hazards.md` R412). -/
def loadWords : List Word → Nat → State → State
  | [], _, s => s
  | w :: rest, a, s => loadWords rest (a + 1) (s.storeWord (BitVec.ofNat 12 a) w)

/-- `loadProgram(words, address)`: rejected whole, with no change, when it would write at or beyond
WORD_COUNT (`70_reset_and_hazards.md` R412). -/
def State.loadProgram (s : State) (words : List Word) (address : Nat) : State :=
  if words = [] ∨ address + words.length ≤ s.cfg.wordCount then loadWords words address s else s

/-- The value of a binary digit. -/
def digitValue : Char → Option Bool
  | '0' => some false
  | '1' => some true
  | _ => none

/-- The digits of a word, the most significant first; a character that is no binary digit gives no value. -/
def digitsValue (acc : Word) : List Char → Option Word
  | [] => some acc
  | c :: rest =>
    match digitValue c with
    | some b => digitsValue (acc <<< 1 ||| (BitVec.ofBool b).setWidth 16) rest
    | none => none

/-- The word of a 16-character binary-digit string, most significant digit first
(`70_reset_and_hazards.md` R412). -/
def wordOfDigits (text : List Char) : Option Word := if text.length = 16 then digitsValue 0 text else none

/-- The words of a program given as binary-digit strings. -/
def wordsOfDigits : List (List Char) → Option (List Word)
  | [] => some []
  | text :: rest =>
    match wordOfDigits text, wordsOfDigits rest with
    | some w, some ws => some (w :: ws)
    | _, _ => none

/-- `loadProgram` of words given as "16-character binary-digit strings" (`70_reset_and_hazards.md` R412). A
string of another form is a host error, rejected whole like a block past memory: DESIGN CHOICE, log entry 17. -/
def State.loadProgramDigits (s : State) (texts : List (List Char)) (address : Nat) : State :=
  match wordsOfDigits texts with
  | some words => s.loadProgram words address
  | none => s

/-- `setPC(v)` (`70_reset_and_hazards.md` R415). -/
def State.hostSetPc (s : State) (v : Word) : State := s.setPc v

/-- `push(dev, w)` (`70_reset_and_hazards.md` R413). -/
def State.hostPush (s : State) (dev : BitVec 5) (w : Word) : State := s.pushDevice dev w

/-- `pop(dev)`: the head of a non-empty buffer; of an empty one, rejected with no change
(`70_reset_and_hazards.md` R413). -/
def State.hostPop (s : State) (dev : BitVec 5) : Option Word × State :=
  match s.device dev with
  | [] => (none, s)
  | v :: rest => (some v, s.setDevice dev rest)

/-- `isEmpty(dev)` (`70_reset_and_hazards.md` R413). -/
def State.hostIsEmpty (s : State) (dev : BitVec 5) : Bool := (s.device dev).isEmpty

/-- `size(dev)` (`70_reset_and_hazards.md` R413). -/
def State.hostSize (s : State) (dev : BitVec 5) : Nat := (s.device dev).length

/-- `pause()`: clears MSR.running; the instruction stays in flight (`40_control_unit.md` R157). -/
def State.hostPause (s : State) : State := s.stopRunning

/-- `singleStep()`: one step whatever MSR.running holds (`40_control_unit.md` R156). -/
def hostSingleStep (s : State) : Host.Outcome State Fault Refusal := tick s

/-- `k` single steps, stopping where the engine has no step (`40_control_unit.md` R140, R156). -/
def ticks : Nat → State → Host.Outcome State Fault Refusal
  | 0, s => .next s
  | k + 1, s =>
    match tick s with
    | .next s' => ticks k s'
    | .fault f => .fault f
    | .refused r => .refused r

/-- The run loop goes on: `running = 1 and not fatal and not refused` (`40_control_unit.md` R155). -/
def State.loopGoesOn (s : State) : Bool := s.msr.running && !s.fatal && s.refused.isNone

/-- The run loop's body, at most `fuel` times (`40_control_unit.md` R155). -/
def runLoop : Nat → State → State
  | 0, s => s
  | fuel + 1, s => if s.loopGoesOn then runLoop fuel (phaseStep s) else s

/-- Set MSR.running, the first statement of Run() (`40_control_unit.md` R155). -/
def State.startRunning (s : State) : State := { s with msr := { s.msr with running := true } }

/-- `run()`, watched for at most `fuel` ticks: a loop that never ends has no end state
(log entry 13, `40_control_unit.md` R155, `70_reset_and_hazards.md` R417). -/
def hostRun (fuel : Nat) (s : State) : State := runLoop fuel s.startRunning

/-- `resume()`: the wait flags cleared, then `run()` (`70_reset_and_hazards.md` R414). -/
def hostResume (fuel : Nat) (s : State) : State :=
  hostRun fuel { s with msr := { s.msr with readyForInput := false, waitingForCard := false } }

end Sys2Proof.Machine
end

