-- ==== Sys2Proof/Machine/Step.lean ====
section
/-! DEFINITION. The host's step: one instruction, as the phases of `tick` leave it (log entry 1). -/

namespace Sys2Proof.Machine

/-- Decode and the phases after it: the decoded instruction runs, an undefined opcode raises Fault(2)
(`40_control_unit.md` R143). -/
def runDecoded (s : State) : Host.Outcome State Fault Refusal :=
  match decode s.cfg.opcodeMap s.ir with
  | .ok i => exec i s
  | .error _ => .next (faultDispatch .illegalOpcode s)

/-- From Instruction Fetch: if it ends in Decode the instruction runs, else (the fetch faulted, or PC was
beyond memory) the step ends there. -/
def runFetched (s : State) : Host.Outcome State Fault Refusal :=
  match s.control with
  | .decode => runDecoded s
  | .fetch => .next s
  | .operandFetch _ => .next s
  | .execute _ => .next s
  | .resultStore _ => .next s

/-- One step: from phase 1 a whole instruction, from a later phase the rest of the instruction in flight
(`40_control_unit.md` R140 applied up to the instruction's end, R160). No step while the fatal or the
refused mark is set. -/
def step (s : State) : Host.Outcome State Fault Refusal :=
  if s.fatal then .fault .fatalStop
  else
    match s.refused with
    | some r => .refused (.marked r)
    | none =>
      match s.control with
      | .fetch => runFetched (fetchPhase s)
      | .decode => runDecoded s
      | .operandFetch _ => .next (finishInstruction s)
      | .execute _ => .next (finishInstruction s)
      | .resultStore _ => .next (finishInstruction s)

/-- `s` with the one-word instruction `w` stored where `step` fetches its next instruction. -/
def State.withFetchWord (s : State) (nbits w : Nat) : State :=
  s.withFirstWord (BitVec.ofNat 16 (w % 2 ^ nbits))

end Sys2Proof.Machine
end

