-- ==== Sys2Proof/Safety.lean ====
section
/-! DEFINITION. The invariants of the engine, the launch premise, and the ends of a run. -/

namespace Sys2Proof.Machine

/-- R70's coherence: every valid line with tag t holds `M[4t .. 4t+3]` (`20_memory.md` R70). -/
abbrev State.Coherent (s : State) : Prop :=
  ∀ l ∈ s.cache, l.w0 = s.mem.read (4 * l.tag.toNat) ∧ l.w1 = s.mem.read (4 * l.tag.toNat + 1)
    ∧ l.w2 = s.mem.read (4 * l.tag.toNat + 2) ∧ l.w3 = s.mem.read (4 * l.tag.toNat + 3)

/-- The cache holds at most 16 lines, no two with the same tag (`20_memory.md` R66, R67). -/
abbrev State.CacheShape (s : State) : Prop :=
  s.cache.length ≤ 16 ∧ s.cache.Pairwise (fun l l' => l.tag ≠ l'.tag)

/-- Memory lies below WORD_COUNT (`20_memory.md` R60). -/
abbrev State.MemoryInRange (s : State) : Prop := ∀ c ∈ s.mem, c.1 < s.cfg.wordCount

/-- The record in flight, if any, carries the faulted mark exactly when an operand id is illegal
(`40_control_unit.md` R146). -/
abbrev State.RecordMarked (s : State) : Prop :=
  ∀ c ∈ s.control.record?, c.faulted = !c.instr.wellFormed

/-- `MSR.executingFaultHandler` and `MSR.supervisorFault` are set only in supervisor mode, which nothing but
reset leaves (`60_exceptions.md` R372, R379). -/
abbrev State.HandlerPrivileged (s : State) : Prop :=
  (s.msr.executingFaultHandler = true → s.msr.supervisor = true)
    ∧ (s.msr.supervisorFault = true → s.msr.supervisor = true)

/-- The number of MFR flags that are set. -/
def MFR.count (m : MFR) : Nat :=
  m.protectedAccess.toNat + m.illegalTrapCode.toNat + m.illegalOpcode.toNat + m.beyondLimit.toNat

/-- At most one fault kind is recorded, and one exactly when a handler has been entered since reset
(`10_state.md` R27, `60_exceptions.md` R372). -/
abbrev State.FaultRecorded (s : State) : Prop :=
  s.mfr.count = if s.msr.executingFaultHandler then 1 else 0

/-- The fatal mark is set only inside a fault handler, with the run loop stopped (`60_exceptions.md` R376). -/
abbrev State.FatalStopped (s : State) : Prop :=
  s.fatal = true → s.msr.executingFaultHandler = true ∧ s.msr.running = false

/-- The invariant of the engine: it holds at reset and every step keeps it. -/
abbrev State.Inv (s : State) : Prop :=
  s.cfg.Valid ∧ s.mem.wf ∧ s.MemoryInRange ∧ s.CacheShape ∧ s.Coherent ∧ s.RecordMarked
    ∧ s.HandlerPrivileged ∧ s.FaultRecorded

/-! The words the statements are made of -/

/-! `u` is `s` in every component but the internal ones named: what an instruction's own phases write beside its
result. None of them is read as a value by a program (`10_state.md` R32, `20_memory.md` R70). -/

/-- `u` is `s` but for the phase counter and the record. -/
abbrev State.SameButControl (s u : State) : Prop := u = { s with control := u.control }

/-- Also but for the ALU's latches: an instruction on registers with an ALU operation. -/
abbrev State.SameButAlu (s u : State) : Prop := u = { s with alu := u.alu, control := u.control }

/-- But for what effective address and memory accesses write: IAR, MAR, MBR and the cache
(`40_control_unit.md` R149). -/
abbrev State.SameButAccess (s u : State) : Prop :=
  u = { s with mar := u.mar, mbr := u.mbr, iar := u.iar, cache := u.cache, control := u.control }

/-- The same, and the ALU's latches. -/
abbrev State.SameButAccessAlu (s u : State) : Prop :=
  u = { s with mar := u.mar, mbr := u.mbr, iar := u.iar, cache := u.cache, control := u.control, alu := u.alu }

/-- The same, and the FPU's latches. -/
abbrev State.SameButAccessFpu (s u : State) : Prop :=
  u = { s with mar := u.mar, mbr := u.mbr, iar := u.iar, cache := u.cache, control := u.control, fpu := u.fpu }

/-- A fault was dispatched: its handler is executing, one kind is recorded, and it is phase 1
(`60_exceptions.md` R372). -/
abbrev State.HandlerEntered (t : State) : Prop :=
  t.msr.executingFaultHandler = true ∧ t.mfr.count = 1 ∧ t.control = .fetch

/-- The fault an access at address value `v` raises at the current privilege, if any (`20_memory.md` R62). -/
abbrev State.faultAt (s : State) (v : Word) : Option FaultCode :=
  checkAccess s.cfg.wordCount (addrOf v) s.msr.supervisor

/-- The memory word an address value reaches. -/
abbrev State.wordAt (s : State) (v : Word) : Word := s.mem.read (addrOf v).toNat

/-- The effective address in terms of registers and memory (`40_control_unit.md` R150). -/
abbrev State.effectiveAddress (s : State) (indexed : Bool) (x : IndexId) (ind : Bool) (addr : BitVec 5) : Word :=
  if ind then s.wordAt (s.directEa indexed x addr) else s.directEa indexed x addr

/-- The fault the effective address raises: that of its indirect read (`40_control_unit.md` R150). -/
abbrev State.eaFault (s : State) (indexed : Bool) (x : IndexId) (ind : Bool) (addr : BitVec 5) :
    Option FaultCode :=
  if ind then s.faultAt (s.directEa indexed x addr) else none

/-- The fault Operand Fetch raises for an instruction that reads a memory operand: the indirect read comes
first (`60_exceptions.md` R380). -/
abbrev State.operandFault (s : State) (indexed : Bool) (x : IndexId) (ind : Bool) (addr : BitVec 5) :
    Option FaultCode :=
  match s.eaFault indexed x ind addr with
  | some k => some k
  | none => s.faultAt (s.effectiveAddress indexed x ind addr)

/-- The value of a packed word, `(-1)^s * m * 2^E` (`45_floating_vector.md` R301). -/
def floatValue (w : Word) : ℚ := (signed (floatSign w) (floatMantissa w) : ℚ) * (2 : ℚ) ^ floatExponent w

/-- The engine may take a step: neither mark is set (`40_control_unit.md` R140). -/
abbrev State.Live (s : State) : Prop := s.fatal = false ∧ s.refused = none

/-- What a claim lists of the state it starts in; what it does not list is 0
(`70_reset_and_hazards.md` R411). -/
structure Listed where
  regs : Regs := { r0 := 0, r1 := 0, r2 := 0, r3 := 0 }
  index : IndexRegs := { x1 := 0, x2 := 0, x3 := 0 }
  fregs : FloatRegs := { fr0 := 0, fr1 := 0 }
  pc : Addr := 0
  mem : Memory := []
  deriving DecidableEq, Repr

/-- The state that holds what a claim lists, all else as reset leaves it. -/
def State.entry (cfg : Params) (draws : Nat) (l : Listed) : State :=
  { State.initial cfg with regs := l.regs, index := l.index, fregs := l.fregs, pc := l.pc, mem := l.mem,
                           draws := draws }

/-- CleanEntry, the launch premise: marks false, phase 1, record, flags, cache and buffers empty, "registers
and memory as the claim lists them, all else 0" (`70_reset_and_hazards.md` R411). MSR.interactive and
MSR.debugging are the configuration, as reset leaves them: DEDUCED, log entry 16. -/
abbrev State.CleanEntry (s : State) (l : Listed) : Prop := s = State.entry s.cfg s.draws l

/-- The ends of a run (`70_reset_and_hazards.md` R417). -/
inductive RunEnd where
  | halted | fellOff | waitingInput | paused | fatal | refused
  deriving DecidableEq, Repr

/-- Result Store of HLT is pending. -/
def Control.holdsHlt : Control → Bool
  | .resultStore c => c.instr = .hlt
  | .fetch => false
  | .decode => false
  | .operandFetch _ => false
  | .execute _ => false

/-- Which end a state is, or none while the loop goes on (`70_reset_and_hazards.md` R417). DESIGN CHOICE, log
entry 15: a stopped state at phase 1 that a host's pause left and that also meets the row of FellOff or of
WaitingInput is named by that row, and every other stopped state is Paused. -/
def State.runEnd (s : State) : Option RunEnd :=
  if s.fatal then some .fatal
  else if s.refused.isSome then some .refused
  else if s.msr.running then none
  else if s.control.holdsHlt then some .halted
  else if s.control = .fetch ∧ (s.msr.readyForInput ∨ s.msr.waitingForCard) then some .waitingInput
  else if s.control = .fetch ∧ s.cfg.wordCount ≤ s.pc.toNat then some .fellOff
  else some .paused

end Sys2Proof.Machine
end

