-- ==== Sys2Proof/Certificates/Slice0/Obligations.lean ====
section
/-! DEFINITION. The statements for the provers. `s.SameButControl u`, `s.SameButAlu u`, `s.SameButAccess u` and
their like say that `u` is `s` in every component but the internal ones they name: the phase counter and record,
the latches, MAR, MBR, IAR and the cache. The updates written out beside them are the whole of the rest. -/

open Sys2Proof Sys2Proof.Machine

/-- For every instruction, with every operand at every value its field admits, decode under the default
opcode map of encode i is i. (R112, R116) -/
def Obligations.DecodeOfEncode : Prop :=
  ∀ i : Instr, decode defaultOpcodeMap (encode i) = .ok i

/-- Every word either decodes to exactly one instruction, whose mnemonic has the word's opcode and whose
encoding is the word's relevant bits (opcode and used fields), or has an opcode no mnemonic has and is
rejected by that opcode's name. (R116) -/
def Obligations.EncodeOfDecode : Prop :=
  ∀ w : Word,
    (∃ i, decode defaultOpcodeMap w = .ok i ∧ i.mnemonic.opcode = opcodeField w
        ∧ encode i = w &&& i.mnemonic.relevantBits)
      ∨ ((∀ m : Mnemonic, m.opcode ≠ opcodeField w)
        ∧ decode defaultOpcodeMap w = .error (.illegalOpcode (opcodeField w)))

/-- If a word's opcode is that of mnemonic m and another word agrees with it on m's relevant bits, both
decode alike: the unused bits are ignored by decode. (R110, R111) -/
def Obligations.IgnoredBitsDoNotChangeDecode : Prop :=
  ∀ (m : Mnemonic) (w w' : Word), opcodeField w = m.opcode → w' &&& m.relevantBits = w &&& m.relevantBits →
    decode defaultOpcodeMap w' = decode defaultOpcodeMap w

/-- Nine words of the spec's examples, one or more for each format, decode to the instruction the spec
names, and the word 0x5800 is rejected. (R102, R103, R104, R105, R106, R107, R113) -/
def Obligations.SpecWordsDecode : Prop :=
  decode defaultOpcodeMap 0x0562 = .ok (.ldr .r1 .x1 true 2)
    ∧ decode defaultOpcodeMap 0x0F5F = .ok (.lda .r3 .x1 false 31)
    ∧ decode defaultOpcodeMap 0x2B14 = .ok (.jcc .equal .x0 false 20)
    ∧ decode defaultOpcodeMap 0x4080 = .ok (.mlt .r0 .r2)
    ∧ decode defaultOpcodeMap 0x6484 = .ok (.src .r0 true false 4)
    ∧ decode defaultOpcodeMap 0xA10E = .ok (.ldfr .fr1 .x0 false 14)
    ∧ decode defaultOpcodeMap 0xC502 = .ok (.inp .r1 2)
    ∧ decode defaultOpcodeMap 0x6013 = .ok (.trap 1 3)
    ∧ decode defaultOpcodeMap 0x03FF = .ok .hlt
    ∧ decode defaultOpcodeMap 0x5800 = .error (.illegalOpcode 0o26)

/-- MLT and DVD with a register other than R0, R2, the floating instructions with fr 2 or 3, LDX and STX of
X0: Operand Fetch runs and may raise as for an unfaulted instruction; otherwise no register, flag, memory
word, device or status changes and PC keeps the fetched address plus 1. (R147) -/
def Obligations.FaultedInstructionsAreNoOps : Prop :=
  ∀ s : State, s.Coherent →
    (∀ rx ry, Instr.wellFormed (.mlt rx ry) = false →
      ∃ u, s.SameButControl u ∧ u.control = .fetch ∧ exec (.mlt rx ry) s = .next u)
    ∧ (∀ rx ry, Instr.wellFormed (.dvd rx ry) = false →
      ∃ u, s.SameButControl u ∧ u.control = .fetch ∧ exec (.dvd rx ry) s = .next u)
    ∧ (∀ fr x ind addr, fr.legal = false →
      ∀ i ∈ [Instr.fadd fr x ind addr, .fsub fr x ind addr, .ldfr fr x ind addr],
        (s.operandFault true x ind addr = none →
          ∃ u, s.SameButAccess u ∧ u.control = .fetch ∧ exec i s = .next u)
        ∧ ∀ k, s.operandFault true x ind addr = some k →
          ∃ u, s.SameButAccess u ∧ u.Coherent ∧ exec i s = .next (faultDispatch k u))
    ∧ (∀ fr x ind addr, fr.legal = false →
      (s.eaFault true x ind addr = none →
        ∃ u, s.SameButAccess u ∧ u.control = .fetch ∧ exec (.stfr fr x ind addr) s = .next u)
      ∧ ∀ k, s.eaFault true x ind addr = some k →
        ∃ u, s.SameButAccess u ∧ u.Coherent ∧ exec (.stfr fr x ind addr) s = .next (faultDispatch k u))
    ∧ (∀ ind addr,
      (s.operandFault s.cfg.ldxEaIndexed .x0 ind addr = none →
        ∃ u, s.SameButAccess u ∧ u.control = .fetch ∧ exec (.ldx .x0 ind addr) s = .next u)
      ∧ ∀ k, s.operandFault s.cfg.ldxEaIndexed .x0 ind addr = some k →
        ∃ u, s.SameButAccess u ∧ u.Coherent ∧ exec (.ldx .x0 ind addr) s = .next (faultDispatch k u))
    ∧ ∀ ind addr,
      (s.eaFault s.cfg.ldxEaIndexed .x0 ind addr = none →
        ∃ u, s.SameButAccess u ∧ u.control = .fetch ∧ exec (.stx .x0 ind addr) s = .next u)
      ∧ ∀ k, s.eaFault s.cfg.ldxEaIndexed .x0 ind addr = some k →
        ∃ u, s.SameButAccess u ∧ u.Coherent ∧ exec (.stx .x0 ind addr) s = .next (faultDispatch k u)

/-- At phase 1 with neither mark set, PC below WORD_COUNT and the fetch permitted: if memory's word at PC
decodes to i, step is exec of i at the state after the fetch (IR and MBR that word, MAR the PC, PC advanced
by 1, the cache filled). That one step is a whole instruction is the model's choice (log entry 1). (R142,
R144) -/
def Obligations.StepRunsDecodedInstruction : Prop :=
  ∀ (s : State) (i : Instr), s.Coherent → s.Live → s.control = .fetch → s.pc.toNat < s.cfg.wordCount →
    (6 ≤ s.pc.toNat ∨ s.msr.supervisor = true) →
    decode s.cfg.opcodeMap (s.mem.read s.pc.toNat) = .ok i →
    step s = exec i { s with ir := s.mem.read s.pc.toNat, mbr := s.mem.read s.pc.toNat, mar := s.pc,
                             pc := s.pc + 1, cache := s.cacheAfterRead s.pc, control := .decode }

/-- In phase 2, if IR's opcode has no entry in OPCODE_MAP, the step and the tick dispatch the illegal-opcode
fault from that state, with PC as it stands. From phase 1 one step fetches, decodes and dispatches that
fault with PC the fetched address plus 1: that one step does all this is the model's choice (log entry 1).
(R142, R143, R373) -/
def Obligations.UndefinedOpcodeFaults : Prop :=
  (∀ s : State, s.Live → s.control = .decode → s.cfg.opcodeMap.lookup (s.ir.extractLsb' 10 6) = none →
    tick s = .next (faultDispatch .illegalOpcode s) ∧ step s = .next (faultDispatch .illegalOpcode s))
  ∧ ∀ s : State, s.Coherent → s.Live → s.control = .fetch → s.pc.toNat < s.cfg.wordCount →
    (6 ≤ s.pc.toNat ∨ s.msr.supervisor = true) →
    s.cfg.opcodeMap.lookup ((s.mem.read s.pc.toNat).extractLsb' 10 6) = none →
    ∃ u, u.pc = s.pc + 1 ∧ u.regs = s.regs ∧ u.mem = s.mem ∧ u.msr = s.msr ∧ u.Coherent
      ∧ step s = .next (faultDispatch .illegalOpcode u)

/-- At phase 1 with PC at or beyond WORD_COUNT, the step and the tick clear MSR.running and change nothing
else, raise no fault, and a later step repeats the same effect. (R141) -/
def Obligations.FetchBeyondMemoryStopsTheLoop : Prop :=
  ∀ s : State, s.Live → s.control = .fetch → s.cfg.wordCount ≤ s.pc.toNat →
    tick s = .next { s with msr := { s.msr with running := false } }
    ∧ step s = .next { s with msr := { s.msr with running := false } }
    ∧ step { s with msr := { s.msr with running := false } }
        = .next { s with msr := { s.msr with running := false } }

/-- At phase 1 with PC below WORD_COUNT: in user mode below address 6 the tick dispatches the protected-
access fault with PC not advanced; otherwise MAR is the PC, IR and MBR are memory's word, PC is advanced by
1 mod 2^12 and the phase counter is 2. (R142) -/
def Obligations.FetchReadsAndAdvances : Prop :=
  ∀ s : State, s.Coherent → s.Live → s.control = .fetch → s.pc.toNat < s.cfg.wordCount →
    ((s.pc.toNat < 6 ∧ s.msr.supervisor = false) → ∃ m, tick s = .next (faultDispatch .protectedAccess { s with mar := m }))
    ∧ (¬(s.pc.toNat < 6 ∧ s.msr.supervisor = false) →
      tick s = .next { s with mar := s.pc, mbr := s.mem.read s.pc.toNat, ir := s.mem.read s.pc.toNat,
                              pc := BitVec.ofNat 12 (s.pc.toNat + 1), cache := s.cacheAfterRead s.pc,
                              control := .decode })

/-- With the fatal mark set, step and tick answer the fault fatalStop; with the refused mark set, they
answer a refusal with the mark's reason. With neither, both answer a next state or the step of the decoded
instruction, never a stop. (R36, R37, R140) -/
def Obligations.MarksLeaveNoStep : Prop :=
  (∀ s : State, s.fatal = true → step s = .fault .fatalStop ∧ tick s = .fault .fatalStop)
  ∧ (∀ (s : State) (r : RefuseReason), s.fatal = false → s.refused = some r →
      step s = .refused (.marked r) ∧ tick s = .refused (.marked r))
  ∧ ∀ s : State, s.Live → (∃ t, step s = .next t) ∧ ∃ t, tick s = .next t

/-- From every state, reached or not, step answers what some number of single-phase ticks from one to five
answers: the host's step, one instruction by the model's choice (log entry 1), is the spec's Step()
repeated. (R2, R140, R160) -/
def Obligations.StepIsAtMostFivePhases : Prop :=
  ∀ s : State, ∃ n, 1 ≤ n ∧ n ≤ 5 ∧ step s = ticks n s

/-- The host's reset leaves memory 0, R, X, FR, PC, MAR, IR, MBR, IAR and the latches 0, CC and MFR 0, MSR
user mode with interactive and debugging from the configuration and the rest 0, phase 1, no record, an empty
cache, empty device buffers and no mark, whatever the state was. That the free-value counter is 0 is not
claimed. (R410) -/
def Obligations.ResetSetsEverything : Prop :=
  ∀ s : State, ∃ d, s.hostReset =
    { cfg := s.cfg, regs := ⟨0, 0, 0, 0⟩, index := ⟨0, 0, 0⟩, fregs := ⟨0, 0⟩, pc := 0,
      cc := ⟨false, false, false, false, false⟩,
      msr := ⟨false, false, false, s.cfg.interactive, s.cfg.debug, false, false, false⟩,
      mfr := ⟨false, false, false, false⟩, ir := 0, mar := 0, mbr := 0, iar := 0, alu := ⟨0, 0, 0, 0⟩,
      fpu := ⟨0, 0, 0⟩, control := .fetch, mem := [], cache := [], devices := Vector.replicate 32 [],
      fatal := false, refused := none, draws := d }
    ∧ ∀ a, s.hostReset.mem.read a = 0

/-- State.reset has valid parameters, canonical memory in range, a well-shaped coherent cache, no wrongly
marked record, and consistent fault flags. (R4, R66, R70, R410) -/
def Obligations.ResetMeetsInvariant : Prop :=
  State.reset.Inv

/-- If a state has valid parameters, canonical memory below WORD_COUNT, at most 16 cache lines with distinct
tags that equal memory, a record marked faulted exactly when an operand id is illegal, handler flags set
only in supervisor mode, and one MFR flag exactly when a handler was entered, then so has the state after a
step. (R4, R60, R66, R67, R70, R146, R372, R379) -/
def Obligations.StepKeepsInvariant : Prop :=
  ∀ s t : State, s.Inv → step s = .next t → t.Inv

/-- Coherence holds at reset, is preserved by a read's fill and by every write, and makes CacheRead return
memory's word at every address. (R70) -/
def Obligations.CacheIsCoherent : Prop :=
  State.reset.Coherent
  ∧ (∀ (s : State) (a : Addr), s.Coherent → (s.afterLoad a).Coherent)
  ∧ (∀ (s : State) (a : Addr) (v : Word), s.mem.wf → s.Coherent → (s.storeWord a v).Coherent)
  ∧ ∀ (s : State) (a : Addr), s.Coherent → s.cachedWord a = s.mem.read a.toNat

/-- On a miss at address a the new cache is the old one, less its oldest line if 16 were valid, with one
newest line whose tag is a / 4 and whose words are the four words of memory at a - a mod 4; the word
returned is memory's; the block lies inside memory. On a hit the cache is unchanged. (R68) -/
def Obligations.ReadMissFillsFifo : Prop :=
  ∀ (s : State) (a : Addr),
    ((∀ l ∈ s.cache, l.tag.toNat ≠ a.toNat / 4) →
      ∃ l : CacheLine, l.tag.toNat = a.toNat / 4
        ∧ (∀ k < 4, l.word k = s.mem.read (a.toNat - a.toNat % 4 + k))
        ∧ (s.afterLoad a).cache = (if s.cache.length < 16 then s.cache else s.cache.tail) ++ [l]
        ∧ s.cachedWord a = s.mem.read a.toNat)
    ∧ ((∃ l ∈ s.cache, l.tag.toNat = a.toNat / 4) → (s.afterLoad a).cache = s.cache)
    ∧ (s.cfg.Valid → a.toNat < s.cfg.wordCount → a.toNat - a.toNat % 4 + 3 < s.cfg.wordCount)

/-- After a write of v at a: memory reads v at a and as before elsewhere; MAR is a and MBR is v; the lines'
tags and their order are unchanged; the cached copy of a, if any, is v and every other cached word is
unchanged. (R64, R69) -/
def Obligations.WritesUpdateInPlace : Prop :=
  ∀ (s : State) (a : Addr) (v : Word), s.mem.wf →
    (∀ b, (s.storeWord a v).mem.read b = if b = a.toNat then v else s.mem.read b)
    ∧ (s.storeWord a v).mar = a ∧ (s.storeWord a v).mbr = v
    ∧ (s.storeWord a v).cache.map (fun l => l.tag) = s.cache.map (fun l => l.tag)
    ∧ ∀ l' ∈ (s.storeWord a v).cache, ∃ l ∈ s.cache, l'.tag = l.tag ∧ ∀ k < 4,
        l'.word k = if 4 * l.tag.toNat + k = a.toNat then v else l.word k

/-- With WORD_COUNT at least 8: an access at an address below 6 in user mode raises Fault(0), one at or
beyond WORD_COUNT Fault(3), each without a new state; every other access completes. (R61, R62, R65) -/
def Obligations.AccessCheckRaises : Prop :=
  ∀ (s : State) (v w : Word), 8 ≤ s.cfg.wordCount →
    (v.toNat % 4096 < 6 → s.msr.supervisor = false →
      s.memRead v = .error .protectedAccess ∧ s.memWrite v w = .error .protectedAccess)
    ∧ (s.cfg.wordCount ≤ v.toNat % 4096 →
      s.memRead v = .error .beyondLimit ∧ s.memWrite v w = .error .beyondLimit)
    ∧ (v.toNat % 4096 < s.cfg.wordCount → (6 ≤ v.toNat % 4096 ∨ s.msr.supervisor = true) →
      (∃ p, s.memRead v = .ok p) ∧ ∃ t, s.memWrite v w = .ok t)

/-- Outside a handler, FaultDispatch(k) sets only MFR flag k, sets executingFaultHandler, sets
supervisorFault if the mode was supervisor and supervisor otherwise, stores PC at 4 and R0 at 5, puts k in
R0, takes PC from memory's word at 1, and leaves phase 1 with no record; MSR.running and everything else but
MAR, MBR and the cache is unchanged. (R372) -/
def Obligations.FaultDispatchSavesAndVectors : Prop :=
  ∀ (k : FaultCode) (s : State), s.mem.wf → s.Coherent → s.msr.executingFaultHandler = false →
    ∃ (m : Memory) (u : State),
      (∀ a, m.read a = if a = 4 then s.pc.setWidth 16 else if a = 5 then s.regs.get .r0 else s.mem.read a)
      ∧ s.SameButAccess u ∧ u.iar = s.iar
      ∧ faultDispatch k s =
        { u with
          mfr := { protectedAccess := k = .protectedAccess, illegalTrapCode := k = .illegalTrapCode,
                   illegalOpcode := k = .illegalOpcode, beyondLimit := k = .beyondLimit }
          msr := { s.msr with executingFaultHandler := true, supervisor := true,
                              supervisorFault := if s.msr.supervisor then true else s.msr.supervisorFault }
          mem := m
          regs := s.regs.set .r0 (match k with
            | .protectedAccess => 0
            | .illegalTrapCode => 1
            | .illegalOpcode => 2
            | .beyondLimit => 3)
          pc := (s.mem.read 1).setWidth 12
          control := .fetch }

/-- Inside a handler, FaultDispatch(k) sets only MFR flag k, the fatal mark, and MSR.running to 0; nothing
is saved, PC and the phase counter stay; the engine then has no step. (R371) -/
def Obligations.FaultWhileHandlingIsFatal : Prop :=
  ∀ (k : FaultCode) (s : State), s.msr.executingFaultHandler = true →
    faultDispatch k s = { s with mfr := MFR.only k, fatal := true, msr := { s.msr with running := false } }
    ∧ step (faultDispatch k s) = .fault .fatalStop ∧ tick (faultDispatch k s) = .fault .fatalStop

/-- From every state a step, and a tick, keeps those three flags set once they are, and never changes the
parameters, MSR.interactive or MSR.debugging. (R26, R379) -/
def Obligations.NothingLeavesSupervisor : Prop :=
  ∀ s t : State, (step s = .next t ∨ tick s = .next t) →
    (s.msr.supervisor = true → t.msr.supervisor = true)
    ∧ (s.msr.executingFaultHandler = true → t.msr.executingFaultHandler = true)
    ∧ (s.msr.supervisorFault = true → t.msr.supervisorFault = true)
    ∧ t.cfg = s.cfg ∧ t.msr.interactive = s.msr.interactive ∧ t.msr.debugging = s.msr.debugging

/-- An instruction other than SOB, AMR, SMR, AIR, SIR, MLT, DVD, TRR, AND, ORR, NOT, SRC, RRC, FADD, FSUB
and CNVRT leaves CC as it was, on every path, a dispatched fault's included. (R25, R208) -/
def Obligations.OnlyAluAndFpuWriteCc : Prop :=
  ∀ (i : Instr) (s t : State),
    i.mnemonic ∉ [.SOB, .AMR, .SMR, .AIR, .SIR, .MLT, .DVD, .TRR, .AND, .ORR, .NOT, .SRC, .RRC, .FADD,
      .FSUB, .CNVRT] →
    exec i s = .next t → t.cc = s.cc

/-- Every other instruction leaves all 32 device buffers as they were, on every path. (R38, R384) -/
def Obligations.OnlyInAndOutChangeDevices : Prop :=
  ∀ (i : Instr) (s t : State), i.mnemonic ∉ [.IN, .OUT] → exec i s = .next t → t.devices = s.devices

/-- For every state with canonical memory, the rest of an instruction in flight included: if the step ends
in user mode, the words at addresses 0..5 are as before. (R62, R65, R382) -/
def Obligations.UserModeCannotWriteProtectedMemory : Prop :=
  ∀ s t : State, s.mem.wf → step s = .next t → t.msr.supervisor = false →
    ∀ a < 6, t.mem.read a = s.mem.read a

/-- From user mode into supervisor mode: an instruction is TRAP, or a fault was dispatched (a handler is
executing, one MFR flag is set, and it is phase 1). A step: the instruction in flight, or with none the one
IR decodes to, is TRAP, or a fault was dispatched. A tick: it is the Execute of TRAP, or a fault was
dispatched. (R382) -/
def Obligations.SupervisorEnteredOnlyByFaultOrTrap : Prop :=
  ∀ s t : State, s.msr.supervisor = false → t.msr.supervisor = true →
    (∀ i : Instr, exec i s = .next t → i.mnemonic = .TRAP ∨ t.HandlerEntered)
    ∧ (step s = .next t →
        (∃ c ∈ s.control.record?, c.instr.mnemonic = .TRAP)
          ∨ (s.control.record? = none ∧ ∃ i, decode t.cfg.opcodeMap t.ir = .ok i ∧ i.mnemonic = .TRAP)
          ∨ t.HandlerEntered)
    ∧ (tick s = .next t → (∃ c, s.control = .execute c ∧ c.instr.mnemonic = .TRAP) ∨ t.HandlerEntered)

/-- If the reads pass, LDR completes: R[r] is memory's word at the effective address, no flag and nothing
else but internal registers changes. If the indirect or the operand read fails, that fault is dispatched
with no register changed. (R180) -/
def Obligations.LdrLoadsRegister : Prop :=
  ∀ (r : RegId) (x : IndexId) (ind : Bool) (addr : BitVec 5) (s : State), s.Coherent →
    encode (.ldr r x ind addr) = encodeRM 0o01 r.bits x.bits ind addr
    ∧ (s.operandFault true x ind addr = none →
        ∃ u, s.SameButAccess u ∧ u.control = .fetch
          ∧ exec (.ldr r x ind addr) s
            = .next (u.setReg r (s.wordAt (s.effectiveAddress true x ind addr))))
    ∧ (∀ k, s.operandFault true x ind addr = some k →
        ∃ u, s.SameButAccess u ∧ u.Coherent ∧ exec (.ldr r x ind addr) s = .next (faultDispatch k u))

/-- For x = 1..3, under LDX_EA_INDEXED as configured: X[x] is memory's word at the effective address and
nothing else but internal registers changes; a failing read dispatches its fault. In numbers, with I = 0:
the address is ADDR when LDX_EA_INDEXED is false, and (X[x] + ADDR) mod 2^12 when it is true. LDX of X0 is
in FaultedInstructionsAreNoOps. (R183) -/
def Obligations.LdxLoadsIndexRegister : Prop :=
  ∀ (x : IndexId) (ind : Bool) (addr : BitVec 5) (s : State) (a : Nat), s.Coherent → x ≠ .x0 →
    a = (if s.cfg.ldxEaIndexed then ((s.index.get x).toNat + addr.toNat) % 4096 else addr.toNat) →
    encode (.ldx x ind addr) = encodeRM 0o41 0 x.bits ind addr
    ∧ (s.operandFault s.cfg.ldxEaIndexed x ind addr = none →
        ∃ u, s.SameButAccess u ∧ u.control = .fetch
          ∧ exec (.ldx x ind addr) s
            = .next (u.setIndex x (s.wordAt (s.effectiveAddress s.cfg.ldxEaIndexed x ind addr))))
    ∧ (∀ k, s.operandFault s.cfg.ldxEaIndexed x ind addr = some k →
        ∃ u, s.SameButAccess u ∧ u.Coherent ∧ exec (.ldx x ind addr) s = .next (faultDispatch k u))
    ∧ (ind = false → (6 ≤ a ∨ s.msr.supervisor = true) → a < s.cfg.wordCount →
        ∃ u, s.SameButAccess u ∧ u.control = .fetch
          ∧ exec (.ldx x ind addr) s = .next (u.setIndex x (s.mem.read a)))

/-- For fr = 0 or 1: FR[fr] is memory's word at the effective address and nothing else but internal
registers changes; a failing read dispatches its fault. fr 2 and 3 are in FaultedInstructionsAreNoOps.
(R185) -/
def Obligations.LdfrLoadsFloatingRegister : Prop :=
  ∀ (fr : FloatId) (x : IndexId) (ind : Bool) (addr : BitVec 5) (s : State) (f : FloatReg), s.Coherent → fr.reg? = some f →
    encode (.ldfr fr x ind addr) = encodeRM 0o50 fr.bits x.bits ind addr
    ∧ (s.operandFault true x ind addr = none →
        ∃ u, s.SameButAccess u ∧ u.control = .fetch
          ∧ exec (.ldfr fr x ind addr) s
            = .next (u.setFloat f (s.wordAt (s.effectiveAddress true x ind addr))))
    ∧ (∀ k, s.operandFault true x ind addr = some k →
        ∃ u, s.SameButAccess u ∧ u.Coherent ∧ exec (.ldfr fr x ind addr) s = .next (faultDispatch k u))

/-- R[r] is the effective address, not reduced to 12 bits; nothing else but internal registers changes; only
the indirect read can fault. In numbers (the effective address of R150), with base 0 for x0 and the
register's unsigned value for x1..x3, and ADDR the unsigned field: with I = 0, R[r] and IAR are (base +
ADDR) mod 2^16; with I = 1 they are memory's word at (base + ADDR) mod 2^12, Fault(0) below 6 in user mode,
Fault(3) at or beyond WORD_COUNT. (R182) -/
def Obligations.LdaLoadsEffectiveAddress : Prop :=
  ∀ (r : RegId) (x : IndexId) (ind : Bool) (addr : BitVec 5) (s : State) (base : Nat), s.Coherent →
    (x = .x0 ∧ base = 0) ∨ (x = .x1 ∧ base = s.index.x1.toNat) ∨ (x = .x2 ∧ base = s.index.x2.toNat)
      ∨ (x = .x3 ∧ base = s.index.x3.toNat) →
    encode (.lda r x ind addr) = encodeRM 0o03 r.bits x.bits ind addr
    ∧ (s.eaFault true x ind addr = none →
        ∃ u, s.SameButAccess u ∧ u.control = .fetch
          ∧ exec (.lda r x ind addr) s = .next (u.setReg r (s.effectiveAddress true x ind addr)))
    ∧ (∀ k, s.eaFault true x ind addr = some k →
        ∃ u, s.SameButAccess u ∧ u.Coherent ∧ exec (.lda r x ind addr) s = .next (faultDispatch k u))
    ∧ (ind = false →
        ∃ u, s.SameButAccess u ∧ u.control = .fetch ∧ u.iar = BitVec.ofNat 16 (base + addr.toNat)
          ∧ exec (.lda r x ind addr) s = .next (u.setReg r (BitVec.ofNat 16 (base + addr.toNat))))
    ∧ (ind = true →
        (6 ≤ (base + addr.toNat) % 4096 ∨ s.msr.supervisor = true) →
        ((base + addr.toNat) % 4096 < s.cfg.wordCount →
          ∃ u, s.SameButAccess u ∧ u.control = .fetch ∧ u.iar = s.mem.read ((base + addr.toNat) % 4096)
            ∧ exec (.lda r x ind addr) s = .next (u.setReg r (s.mem.read ((base + addr.toNat) % 4096))))
        ∧ (s.cfg.wordCount ≤ (base + addr.toNat) % 4096 →
          ∃ u, s.SameButAccess u ∧ u.Coherent ∧ exec (.lda r x ind addr) s = .next (faultDispatch .beyondLimit u)))
    ∧ (ind = true → (base + addr.toNat) % 4096 < 6 → s.msr.supervisor = false →
        ∃ u, s.SameButAccess u ∧ u.Coherent
          ∧ exec (.lda r x ind addr) s = .next (faultDispatch .protectedAccess u))

/-- If the accesses pass, memory's word at the effective address mod 2^12 is R[r], every other word and
everything else but internal registers is unchanged. A failing indirect read or store dispatches its fault
and does not mutate memory before dispatch. (R181) -/
def Obligations.StrStoresRegister : Prop :=
  ∀ (r : RegId) (x : IndexId) (ind : Bool) (addr : BitVec 5) (s : State), s.mem.wf → s.Coherent →
    encode (.str r x ind addr) = encodeRM 0o02 r.bits x.bits ind addr
    ∧ (s.eaFault true x ind addr = none → s.faultAt (s.effectiveAddress true x ind addr) = none →
        ∃ (u : State) (m : Memory), s.SameButAccess u ∧ u.control = .fetch
          ∧ (∀ a, m.read a = if a = (addrOf (s.effectiveAddress true x ind addr)).toNat then s.regs.get r else s.mem.read a)
          ∧ exec (.str r x ind addr) s = .next { u with mem := m })
    ∧ (∀ k, s.eaFault true x ind addr = some k →
        ∃ u, s.SameButAccess u ∧ u.Coherent ∧ exec (.str r x ind addr) s = .next (faultDispatch k u))
    ∧ (∀ k, s.eaFault true x ind addr = none → s.faultAt (s.effectiveAddress true x ind addr) = some k →
        ∃ u, s.SameButAccess u ∧ u.Coherent ∧ exec (.str r x ind addr) s = .next (faultDispatch k u))

/-- For x = 1..3, under LDX_EA_INDEXED as configured; otherwise as STR. STX of X0 is in
FaultedInstructionsAreNoOps. (R184) -/
def Obligations.StxStoresIndexRegister : Prop :=
  ∀ (x : IndexId) (ind : Bool) (addr : BitVec 5) (s : State), s.mem.wf → s.Coherent → x ≠ .x0 →
    encode (.stx x ind addr) = encodeRM 0o42 0 x.bits ind addr
    ∧ (s.eaFault s.cfg.ldxEaIndexed x ind addr = none → s.faultAt (s.effectiveAddress s.cfg.ldxEaIndexed x ind addr) = none →
        ∃ (u : State) (m : Memory), s.SameButAccess u ∧ u.control = .fetch
          ∧ (∀ a, m.read a = if a = (addrOf (s.effectiveAddress s.cfg.ldxEaIndexed x ind addr)).toNat then s.index.get x else s.mem.read a)
          ∧ exec (.stx x ind addr) s = .next { u with mem := m })
    ∧ (∀ k, s.eaFault s.cfg.ldxEaIndexed x ind addr = some k →
        ∃ u, s.SameButAccess u ∧ u.Coherent ∧ exec (.stx x ind addr) s = .next (faultDispatch k u))
    ∧ (∀ k, s.eaFault s.cfg.ldxEaIndexed x ind addr = none → s.faultAt (s.effectiveAddress s.cfg.ldxEaIndexed x ind addr) = some k →
        ∃ u, s.SameButAccess u ∧ u.Coherent ∧ exec (.stx x ind addr) s = .next (faultDispatch k u))

/-- For fr = 0 or 1; otherwise as STR. fr 2 and 3 are in FaultedInstructionsAreNoOps. (R186) -/
def Obligations.StfrStoresFloatingRegister : Prop :=
  ∀ (fr : FloatId) (x : IndexId) (ind : Bool) (addr : BitVec 5) (s : State) (f : FloatReg), s.mem.wf → s.Coherent → fr.reg? = some f →
    encode (.stfr fr x ind addr) = encodeRM 0o51 fr.bits x.bits ind addr
    ∧ (s.eaFault true x ind addr = none → s.faultAt (s.effectiveAddress true x ind addr) = none →
        ∃ (u : State) (m : Memory), s.SameButAccess u ∧ u.control = .fetch
          ∧ (∀ a, m.read a = if a = (addrOf (s.effectiveAddress true x ind addr)).toNat then s.fregs.get f else s.mem.read a)
          ∧ exec (.stfr fr x ind addr) s = .next { u with mem := m })
    ∧ (∀ k, s.eaFault true x ind addr = some k →
        ∃ u, s.SameButAccess u ∧ u.Coherent ∧ exec (.stfr fr x ind addr) s = .next (faultDispatch k u))
    ∧ (∀ k, s.eaFault true x ind addr = none → s.faultAt (s.effectiveAddress true x ind addr) = some k →
        ∃ u, s.SameButAccess u ∧ u.Coherent ∧ exec (.stfr fr x ind addr) s = .next (faultDispatch k u))

/-- If the indirect read, made whether or not the jump is taken, passes: PC is the effective address mod
2^12 when the condition holds (JZ: R[r] = 0, JNE: R[r] not 0, JGE: R[r] not negative as two's complement)
and the fetched address plus 1 otherwise; nothing else but internal registers changes. If it fails its fault
is dispatched. (R200, R201, R207) -/
def Obligations.ZeroAndSignJumps : Prop :=
  ∀ (r : RegId) (x : IndexId) (ind : Bool) (addr : BitVec 5) (s : State) (i : Instr) (op : BitVec 6) (taken : Bool), s.Coherent →
    (i = .jz r x ind addr ∧ op = 0o10 ∧ taken = decide (s.regs.get r = 0))
      ∨ (i = .jne r x ind addr ∧ op = 0o11 ∧ taken = decide (s.regs.get r ≠ 0))
      ∨ (i = .jge r x ind addr ∧ op = 0o17 ∧ taken = decide (0 ≤ (s.regs.get r).toInt)) →
    encode i = encodeRM op r.bits x.bits ind addr
    ∧ (s.eaFault true x ind addr = none →
        ∃ u, s.SameButAccess u ∧ u.control = .fetch
          ∧ exec i s = .next (if taken then { u with pc := addrOf (s.effectiveAddress true x ind addr) } else u))
    ∧ (∀ k, s.eaFault true x ind addr = some k →
        ∃ u, s.SameButAccess u ∧ u.Coherent ∧ exec i s = .next (faultDispatch k u))

/-- As JZ, with the condition the flag the two-bit selector names in the order OV, UN, DZ, EQ; GT cannot be
selected. (R202) -/
def Obligations.JccJumpsOnSelectedFlag : Prop :=
  ∀ (sel : CcSelector) (x : IndexId) (ind : Bool) (addr : BitVec 5) (s : State), s.Coherent →
    encode (.jcc sel x ind addr) = encodeRM 0o12 sel.bits x.bits ind addr
    ∧ (s.eaFault true x ind addr = none →
        ∃ u, s.SameButAccess u ∧ u.control = .fetch
          ∧ exec (.jcc sel x ind addr) s
            = .next (if [s.cc.ov, s.cc.un, s.cc.dz, s.cc.eq][sel.bits.toNat]? = some true
                then { u with pc := addrOf (s.effectiveAddress true x ind addr) } else u))
    ∧ (∀ k, s.eaFault true x ind addr = some k →
        ∃ u, s.SameButAccess u ∧ u.Coherent ∧ exec (.jcc sel x ind addr) s = .next (faultDispatch k u))

/-- PC is the effective address mod 2^12; nothing else but internal registers changes; a failing indirect
read dispatches its fault. (R203) -/
def Obligations.JmaJumps : Prop :=
  ∀ (x : IndexId) (ind : Bool) (addr : BitVec 5) (s : State), s.Coherent →
    encode (.jma x ind addr) = encodeRM 0o13 0 x.bits ind addr
    ∧ (s.eaFault true x ind addr = none →
        ∃ u, s.SameButAccess u ∧ u.control = .fetch
          ∧ exec (.jma x ind addr) s = .next { u with pc := addrOf (s.effectiveAddress true x ind addr) })
    ∧ (∀ k, s.eaFault true x ind addr = some k →
        ∃ u, s.SameButAccess u ∧ u.Coherent ∧ exec (.jma x ind addr) s = .next (faultDispatch k u))

/-- R3 is PC (already the fetched address plus 1) zero-extended, PC is the effective address mod 2^12;
nothing else but internal registers changes; a failing indirect read dispatches its fault with R3 unchanged.
(R204) -/
def Obligations.JsrLinksInR3 : Prop :=
  ∀ (x : IndexId) (ind : Bool) (addr : BitVec 5) (s : State), s.Coherent →
    encode (.jsr x ind addr) = encodeRM 0o14 0 x.bits ind addr
    ∧ (s.eaFault true x ind addr = none →
        ∃ u, s.SameButAccess u ∧ u.control = .fetch
          ∧ exec (.jsr x ind addr) s
            = .next { u with regs := s.regs.set .r3 (s.pc.setWidth 16), pc := addrOf (s.effectiveAddress true x ind addr) })
    ∧ (∀ k, s.eaFault true x ind addr = some k →
        ∃ u, s.SameButAccess u ∧ u.Coherent ∧ exec (.jsr x ind addr) s = .next (faultDispatch k u))

/-- R0 is the zero-extended immediate, PC is R3 mod 2^12; nothing else but internal registers changes; RFS
never faults. (R205) -/
def Obligations.RfsReturnsThroughR3 : Prop :=
  ∀ (imm : BitVec 5) (s : State),
    encode (.rfs imm) = encodeRM 0o15 0 0 false imm
    ∧ ∃ u, s.SameButControl u ∧ u.control = .fetch
      ∧ exec (.rfs imm) s
        = .next { u with regs := s.regs.set .r0 (BitVec.ofNat 16 imm.toNat),
                         pc := BitVec.ofNat 12 (s.regs.get .r3).toNat }

/-- R[r] is R[r] - 1 mod 2^16; UN is R[r] = 0, EQ the result = 0, GT the result not 0, OV and DZ 0; PC is
the effective address mod 2^12 when the result is not 0; nothing else but internal registers changes; a
failing indirect read dispatches its fault. (R206) -/
def Obligations.SobDecrementsAndBranches : Prop :=
  ∀ (r : RegId) (x : IndexId) (ind : Bool) (addr : BitVec 5) (s : State), s.Coherent →
    encode (.sob r x ind addr) = encodeRM 0o16 r.bits x.bits ind addr
    ∧ (s.eaFault true x ind addr = none →
        ∃ u, s.SameButAccessAlu u ∧ u.control = .fetch
          ∧ exec (.sob r x ind addr) s
            = .next { u with
                regs := s.regs.set r (s.regs.get r - 1)
                cc := { ov := false, un := s.regs.get r = 0, dz := false, eq := s.regs.get r = 1,
                        gt := s.regs.get r ≠ 1 }
                pc := if s.regs.get r = 1 then s.pc else addrOf (s.effectiveAddress true x ind addr) })
    ∧ (∀ k, s.eaFault true x ind addr = some k →
        ∃ u, s.SameButAccess u ∧ u.Coherent ∧ exec (.sob r x ind addr) s = .next (faultDispatch k u))

/-- R[r] is the sum mod 2^16, OV is the exact sum above the limit, the other flags 0; nothing else but
internal registers changes; a failing read dispatches its fault with CC unchanged. (R240) -/
def Obligations.AmrAddsOperand : Prop :=
  ∀ (r : RegId) (x : IndexId) (ind : Bool) (addr : BitVec 5) (s : State), s.Coherent →
    encode (.amr r x ind addr) = encodeRM 0o04 r.bits x.bits ind addr
    ∧ (s.operandFault true x ind addr = none →
        ∃ u, s.SameButAccessAlu u ∧ u.control = .fetch
          ∧ exec (.amr r x ind addr) s
            = .next { u with
                regs := s.regs.set r (BitVec.ofNat 16 ((s.regs.get r).toNat + (s.wordAt (s.effectiveAddress true x ind addr)).toNat))
                cc := { ov := s.cfg.addOverflowLimit < (s.regs.get r).toNat + (s.wordAt (s.effectiveAddress true x ind addr)).toNat,
                        un := false, dz := false, eq := false, gt := false } })
    ∧ (∀ k, s.operandFault true x ind addr = some k →
        ∃ u, s.SameButAccess u ∧ u.Coherent ∧ exec (.amr r x ind addr) s = .next (faultDispatch k u))

/-- R[r] is the difference mod 2^16, UN is R[r] below the operand unsigned, the other flags 0; nothing else
but internal registers changes; a failing read dispatches its fault. (R241) -/
def Obligations.SmrSubtractsOperand : Prop :=
  ∀ (r : RegId) (x : IndexId) (ind : Bool) (addr : BitVec 5) (s : State), s.Coherent →
    encode (.smr r x ind addr) = encodeRM 0o05 r.bits x.bits ind addr
    ∧ (s.operandFault true x ind addr = none →
        ∃ u, s.SameButAccessAlu u ∧ u.control = .fetch
          ∧ exec (.smr r x ind addr) s
            = .next { u with
                regs := s.regs.set r (BitVec.ofInt 16 ((s.regs.get r).toNat - (s.wordAt (s.effectiveAddress true x ind addr)).toNat))
                cc := { ov := false, un := (s.regs.get r).toNat < (s.wordAt (s.effectiveAddress true x ind addr)).toNat, dz := false,
                        eq := false, gt := false } })
    ∧ (∀ k, s.operandFault true x ind addr = some k →
        ∃ u, s.SameButAccess u ∧ u.Coherent ∧ exec (.smr r x ind addr) s = .next (faultDispatch k u))

/-- With a nonzero immediate: R[r] is the sum or difference mod 2^16, OV the exact sum above
ADD_OVERFLOW_LIMIT (AIR) or UN a borrow (SIR), the other flags 0, nothing else but internal registers
changed. With a zero immediate: no register, no flag, nothing but internal registers changes. Never a fault.
(R242, R243) -/
def Obligations.AirSirUseImmediate : Prop :=
  ∀ (r : RegId) (imm : BitVec 5) (s : State),
    encode (.air r imm) = encodeRM 0o06 r.bits 0 false imm
    ∧ encode (.sir r imm) = encodeRM 0o07 r.bits 0 false imm
    ∧ (imm ≠ 0 →
        (∃ u, s.SameButAlu u ∧ u.control = .fetch
          ∧ exec (.air r imm) s
            = .next { u with
                regs := s.regs.set r (BitVec.ofNat 16 ((s.regs.get r).toNat + imm.toNat))
                cc := { ov := s.cfg.addOverflowLimit < (s.regs.get r).toNat + imm.toNat
                        un := false, dz := false, eq := false, gt := false } })
        ∧ ∃ u, s.SameButAlu u ∧ u.control = .fetch
          ∧ exec (.sir r imm) s
            = .next { u with
                regs := s.regs.set r (BitVec.ofInt 16 ((s.regs.get r).toNat - imm.toNat))
                cc := { ov := false, un := (s.regs.get r).toNat < imm.toNat
                        dz := false, eq := false, gt := false } })
    ∧ (imm = 0 →
        (∃ u, s.SameButControl u ∧ u.control = .fetch ∧ exec (.air r imm) s = .next u)
        ∧ ∃ u, s.SameButControl u ∧ u.control = .fetch ∧ exec (.sir r imm) s = .next u)

/-- For rx, ry in {R0, R2}: the high 16 bits of the exact product in R[rx], the low 16 in R[rx+1], OV the
product above 0xFFFF, the other flags 0, nothing else but internal registers changed. Other ids are in
FaultedInstructionsAreNoOps. (R244) -/
def Obligations.MltKeepsWholeProduct : Prop :=
  ∀ (rx ry rl : RegId) (s : State), (rx = .r0 ∧ rl = .r1) ∨ (rx = .r2 ∧ rl = .r3) → ry = .r0 ∨ ry = .r2 →
    encode (.mlt rx ry) = encodeRR 0o20 rx.bits ry.bits
    ∧ ∃ u, s.SameButAlu u ∧ u.control = .fetch
      ∧ exec (.mlt rx ry) s
        = .next { u with
            regs := (s.regs.set rx (BitVec.ofNat 16 ((s.regs.get rx).toNat * (s.regs.get ry).toNat / 65536))).set rl
              (BitVec.ofNat 16 ((s.regs.get rx).toNat * (s.regs.get ry).toNat % 65536))
            cc := { ov := 0xFFFF < (s.regs.get rx).toNat * (s.regs.get ry).toNat, un := false, dz := false,
                    eq := false, gt := false } }

/-- For rx, ry in {R0, R2}: with a nonzero divisor the unsigned quotient and remainder and all flags 0; with
a zero divisor DZ alone is set and the two registers receive some values, and only the model's own counter
of free values changes beside them. No fault; nothing else but internal registers changes. Other ids are in
FaultedInstructionsAreNoOps. (R245) -/
def Obligations.DvdDividesOrSetsDz : Prop :=
  ∀ (rx ry rl : RegId) (s : State), (rx = .r0 ∧ rl = .r1) ∨ (rx = .r2 ∧ rl = .r3) → ry = .r0 ∨ ry = .r2 →
    encode (.dvd rx ry) = encodeRR 0o21 rx.bits ry.bits
    ∧ (s.regs.get ry ≠ 0 →
        ∃ u, s.SameButAlu u ∧ u.control = .fetch
          ∧ exec (.dvd rx ry) s
            = .next { u with
                regs := (s.regs.set rx (BitVec.ofNat 16 ((s.regs.get rx).toNat / (s.regs.get ry).toNat))).set rl
                  (BitVec.ofNat 16 ((s.regs.get rx).toNat % (s.regs.get ry).toNat))
                cc := { ov := false, un := false, dz := false, eq := false, gt := false } })
    ∧ (s.regs.get ry = 0 →
        ∃ (u : State) (q m : Word) (d : Nat), s.SameButAlu u ∧ u.control = .fetch
          ∧ exec (.dvd rx ry) s
            = .next { u with
                regs := (s.regs.set rx q).set rl m
                cc := { ov := false, un := false, dz := true, eq := false, gt := false }
                draws := d })

/-- EQ is R[rx] = R[ry], GT is R[rx] above R[ry] unsigned, the other flags 0; nothing else but internal
registers changes. (R247) -/
def Obligations.TrrComparesRegisters : Prop :=
  ∀ (rx ry : RegId) (s : State),
    encode (.trr rx ry) = encodeRR 0o22 rx.bits ry.bits
    ∧ ∃ u, s.SameButAlu u ∧ u.control = .fetch
      ∧ exec (.trr rx ry) s
        = .next { u with cc := { ov := false, un := false, dz := false, eq := s.regs.get rx = s.regs.get ry,
                                 gt := (s.regs.get ry).toNat < (s.regs.get rx).toNat } }

/-- Bit by bit: AND gives the conjunction and ORR the disjunction of R[rx] and R[ry], NOT the complement of
R[rx]; all flags 0; nothing else but internal registers changes. (R248, R249, R250) -/
def Obligations.LogicalOperationsClearCc : Prop :=
  ∀ (rx ry : RegId) (s : State),
    encode (.and rx ry) = encodeRR 0o23 rx.bits ry.bits
    ∧ encode (.orr rx ry) = encodeRR 0o24 rx.bits ry.bits
    ∧ encode (.not rx) = encodeRR 0o25 rx.bits 0
    ∧ (∃ u y, s.SameButAlu u ∧ u.control = .fetch
        ∧ (∀ j < 16, y.getLsbD j = ((s.regs.get rx).getLsbD j && (s.regs.get ry).getLsbD j))
        ∧ exec (.and rx ry) s = .next { u with regs := s.regs.set rx y, cc := ⟨false, false, false, false, false⟩ })
    ∧ (∃ u y, s.SameButAlu u ∧ u.control = .fetch
        ∧ (∀ j < 16, y.getLsbD j = ((s.regs.get rx).getLsbD j || (s.regs.get ry).getLsbD j))
        ∧ exec (.orr rx ry) s = .next { u with regs := s.regs.set rx y, cc := ⟨false, false, false, false, false⟩ })
    ∧ ∃ u y, s.SameButAlu u ∧ u.control = .fetch
        ∧ (∀ j < 16, y.getLsbD j = !(s.regs.get rx).getLsbD j)
        ∧ exec (.not rx) s = .next { u with regs := s.regs.set rx y, cc := ⟨false, false, false, false, false⟩ }

/-- Logical left multiplies by 2^n mod 2^16, logical right divides, arithmetic right divides the signed
value rounding down, arithmetic left is the logical one or, under ASL_PRESERVES_SIGN, keeps bit 15 and
shifts the low 15 bits; all flags 0; nothing else but internal registers changes. (R281, R285) -/
def Obligations.SrcShifts : Prop :=
  ∀ (r : RegId) (al lr : Bool) (count : BitVec 4) (s : State),
    encode (.src r al lr count) = encodeSR 0o31 r.bits al lr count
    ∧ ∃ u y, s.SameButAlu u ∧ u.control = .fetch
      ∧ exec (.src r al lr count) s
        = .next { u with regs := s.regs.set r y, cc := ⟨false, false, false, false, false⟩ }
      ∧ (al = true → lr = true → y.toNat = (s.regs.get r).toNat * 2 ^ count.toNat % 65536)
      ∧ (al = true → lr = false → y.toNat = (s.regs.get r).toNat / 2 ^ count.toNat)
      ∧ (al = false → lr = false → y.toInt = (s.regs.get r).toInt / 2 ^ count.toNat)
      ∧ (al = false → lr = true → s.cfg.aslPreservesSign = false →
          y.toNat = (s.regs.get r).toNat * 2 ^ count.toNat % 65536)
      ∧ (al = false → lr = true → s.cfg.aslPreservesSign = true →
          y.getLsbD 15 = (s.regs.get r).getLsbD 15
          ∧ y.toNat % 32768 = (s.regs.get r).toNat * 2 ^ count.toNat % 32768)

/-- Logical: bit j goes to bit (j + n) mod 16 to the left, or comes from it to the right. Arithmetic: bit 15
stays and bit j below 15 goes to, or comes from, bit (j + n) mod 15. All flags 0; nothing else but internal
registers changes. (R282, R283, R286) -/
def Obligations.RrcRotates : Prop :=
  ∀ (r : RegId) (al lr : Bool) (count : BitVec 4) (s : State),
    encode (.rrc r al lr count) = encodeSR 0o32 r.bits al lr count
    ∧ ∃ u y, s.SameButAlu u ∧ u.control = .fetch
      ∧ exec (.rrc r al lr count) s
        = .next { u with regs := s.regs.set r y, cc := ⟨false, false, false, false, false⟩ }
      ∧ (al = true → lr = true → ∀ j < 16, y.getLsbD ((j + count.toNat) % 16) = (s.regs.get r).getLsbD j)
      ∧ (al = true → lr = false → ∀ j < 16, y.getLsbD j = (s.regs.get r).getLsbD ((j + count.toNat) % 16))
      ∧ (al = false → y.getLsbD 15 = (s.regs.get r).getLsbD 15)
      ∧ (al = false → lr = true → ∀ j < 15, y.getLsbD ((j + count.toNat) % 15) = (s.regs.get r).getLsbD j)
      ∧ (al = false → lr = false → ∀ j < 15, y.getLsbD j = (s.regs.get r).getLsbD ((j + count.toNat) % 15))

/-- For fr = 0 or 1: FR[fr] is the sum or difference FAddSub gives, OV its saturation, the other flags 0,
nothing else but internal registers changed; a failing read dispatches its fault. The value of FAddSub is
FloatAddSubFormula; fr 2 and 3 are in FaultedInstructionsAreNoOps. (R308, R309) -/
def Obligations.FaddFsubWriteFloatingRegister : Prop :=
  ∀ (fr : FloatId) (x : IndexId) (ind : Bool) (addr : BitVec 5) (s : State) (f : FloatReg), s.Coherent → fr.reg? = some f →
    encode (.fadd fr x ind addr) = encodeRM 0o33 fr.bits x.bits ind addr
    ∧ encode (.fsub fr x ind addr) = encodeRM 0o34 fr.bits x.bits ind addr
    ∧ ∀ (i : Instr) (subtract : Bool),
      (i = .fadd fr x ind addr ∧ subtract = false) ∨ (i = .fsub fr x ind addr ∧ subtract = true) →
      (s.operandFault true x ind addr = none →
        ∃ u, s.SameButAccessFpu u ∧ u.control = .fetch
          ∧ exec i s
            = .next { u with
                fregs := s.fregs.set f (fAddSub subtract (s.fregs.get f) (s.wordAt (s.effectiveAddress true x ind addr))).1
                cc := { ov := (fAddSub subtract (s.fregs.get f) (s.wordAt (s.effectiveAddress true x ind addr))).2,
                        un := false, dz := false, eq := false, gt := false } })
      ∧ (∀ k, s.operandFault true x ind addr = some k →
        ∃ u, s.SameButAccess u ∧ u.Coherent ∧ exec i s = .next (faultDispatch k u))

/-- With E the larger exponent and each mantissa divided by 2^(E - its exponent), rounding down, r the exact
signed sum or difference: if |r| is at most 255 the result is sign, E, |r|; else if E is 63 it is the sign
with E = 63 and m = 255, with OV; else sign, E + 1, |r| / 2. OV is set in the saturated case only. (R303,
R304) -/
def Obligations.FloatAddSubFormula : Prop :=
  ∀ (subtract : Bool) (a b : Word) (e r : ℤ),
    e = max (floatExponent a) (floatExponent b) →
    r = signed (floatSign a) (floatMantissa a / 2 ^ (e - floatExponent a).toNat)
      + (if subtract then -1 else 1) * signed (floatSign b) (floatMantissa b / 2 ^ (e - floatExponent b).toNat) →
    fAddSub subtract a b =
      if r.natAbs ≤ 255 then (compose (decide (r < 0)) e r.natAbs, false)
      else if e = 63 then (compose (decide (r < 0)) 63 255, true)
      else (compose (decide (r < 0)) (e + 1) (r.natAbs / 2), false)

/-- For -63 <= E <= 63 and m <= 255, the word Compose(s, E, m) reads back as sign s, exponent E and mantissa
m, and has es = 1 exactly when E is negative. (R302) -/
def Obligations.ComposeIsExact : Prop :=
  ∀ (sign : Bool) (e : ℤ) (m : Nat), -63 ≤ e → e ≤ 63 → m ≤ 255 →
    floatSign (compose sign e m) = sign ∧ floatExponent (compose sign e m) = e
    ∧ floatMantissa (compose sign e m) = m ∧ (compose sign e m).getLsbD 14 = decide (e < 0)

/-- There is an integer v within 1/2 of the word's value, not smaller than it in magnitude when exactly 1/2
away, such that the result is v mod 2^16 and OV is v outside -32768..32767. (R301, R306) -/
def Obligations.FloatToFixedRounds : Prop :=
  ∀ w : Word, ∃ v : ℤ,
    |(v : ℚ) - floatValue w| ≤ 1 / 2 ∧ (|(v : ℚ) - floatValue w| = 1 / 2 → |floatValue w| ≤ |(v : ℚ)|)
    ∧ (floatToFixed w).1 = BitVec.ofInt 16 v
    ∧ ((floatToFixed w).2 = true ↔ ¬(-32768 ≤ v ∧ v ≤ 32767))

/-- The result is Compose(v < 0, E, q) for the signed word v, where E is the smallest exponent >= 0 at which
q, |v| / 2^E rounded half up, is at most 255. Its value is v exactly when |v| is at most 255 and differs
from v by less than |v| / 256 otherwise, and FixedToFloat(0) is 0x0000. (R301, R307) -/
def Obligations.FixedToFloatIsClose : Prop :=
  fixedToFloat 0 = 0
  ∧ ∀ w : Word,
    (∃ (e : Nat) (q : Nat → Nat), q 0 = w.toInt.natAbs
      ∧ (∀ k, q (k + 1) = (w.toInt.natAbs + 2 ^ k) / 2 ^ (k + 1))
      ∧ q e ≤ 255 ∧ (∀ k < e, 255 < q k) ∧ fixedToFloat w = compose (decide (w.toInt < 0)) e (q e))
    ∧ (w.toInt.natAbs ≤ 255 → floatValue (fixedToFloat w) = w.toInt)
    ∧ (255 < w.toInt.natAbs → |floatValue (fixedToFloat w) - w.toInt| * 256 < |(w.toInt : ℚ)|)

/-- If the reads pass: selector 0 writes FloatToFixed of the operand to R[r] with its OV, selector 1 writes
FixedToFloat of it to FR0 with all flags 0, any other selector only sets the refused mark. Nothing else but
internal registers changes. A failing read dispatches its fault. (R312) -/
def Obligations.CnvrtConvertsBySelector : Prop :=
  ∀ (r : RegId) (x : IndexId) (ind : Bool) (addr : BitVec 5) (s : State), s.Coherent →
    encode (.cnvrt r x ind addr) = encodeRM 0o37 r.bits x.bits ind addr
    ∧ (s.operandFault true x ind addr = none →
        (s.regs.get r = 0 → ∃ u, s.SameButAccessFpu u ∧ u.control = .fetch
          ∧ exec (.cnvrt r x ind addr) s
            = .next { u with
                regs := s.regs.set r (floatToFixed (s.wordAt (s.effectiveAddress true x ind addr))).1
                cc := { ov := (floatToFixed (s.wordAt (s.effectiveAddress true x ind addr))).2, un := false,
                        dz := false, eq := false, gt := false } })
        ∧ (s.regs.get r = 1 → ∃ u, s.SameButAccessFpu u ∧ u.control = .fetch
          ∧ exec (.cnvrt r x ind addr) s
            = .next { u with
                fregs := s.fregs.set .fr0 (fixedToFloat (s.wordAt (s.effectiveAddress true x ind addr)))
                cc := ⟨false, false, false, false, false⟩ })
        ∧ (s.regs.get r ≠ 0 → s.regs.get r ≠ 1 → ∃ u, s.SameButAccess u
          ∧ exec (.cnvrt r x ind addr) s = .next { u with refused := some .convertSelector }))
    ∧ (∀ k, s.operandFault true x ind addr = some k →
        ∃ u, s.SameButAccess u ∧ u.Coherent ∧ exec (.cnvrt r x ind addr) s = .next (faultDispatch k u))

/-- With every operand, VADD and VSUB only set the refused mark VectorUnspecified: no other state changes;
the engine then has no step. (R310, R311) -/
def Obligations.VectorInstructionsAreRefused : Prop :=
  ∀ (fr : FloatId) (x : IndexId) (ind : Bool) (addr : BitVec 5) (s : State), s.fatal = false →
    encode (.vadd fr x ind addr) = encodeRM 0o35 fr.bits x.bits ind addr
    ∧ encode (.vsub fr x ind addr) = encodeRM 0o36 fr.bits x.bits ind addr
    ∧ exec (.vadd fr x ind addr) s = .next { s with refused := some .vectorUnspecified }
    ∧ exec (.vsub fr x ind addr) s = .next { s with refused := some .vectorUnspecified }
    ∧ step { s with refused := some .vectorUnspecified } = .refused (.marked .vectorUnspecified)
    ∧ tick { s with refused := some .vectorUnspecified } = .refused (.marked .vectorUnspecified)

/-- With a word in the buffer: R[r] is the oldest word, that buffer loses it, every other buffer is
unchanged. With an empty buffer: the wait flag (waitingForCard for device 2, readyForInput otherwise) is
set, running cleared, PC is back at the IN, and it is phase 1. Nothing else but internal registers changes.
(R340) -/
def Obligations.InPopsOrWaits : Prop :=
  ∀ (r : RegId) (dev : BitVec 5) (s : State),
    encode (.inp r dev) = encodeIO 0o61 r.bits dev
    ∧ (∀ v rest, s.device dev = v :: rest → ∃ u t, s.SameButControl u ∧ u.control = .fetch
        ∧ exec (.inp r dev) s = .next t
        ∧ t = { u with regs := s.regs.set r v, devices := t.devices }
        ∧ t.device dev = rest ∧ ∀ d ≠ dev, t.device d = s.device d)
    ∧ (s.device dev = [] → ∃ u, s.SameButControl u
        ∧ exec (.inp r dev) s
          = .next { u with
              msr := if dev = 2 then { s.msr with waitingForCard := true, running := false }
                     else { s.msr with readyForInput := true, running := false }
              pc := s.pc - 1
              control := .fetch })

/-- The buffer of the device is the old one with the whole word R[r] appended at its tail; every other
buffer and everything else but internal registers is unchanged. (R341) -/
def Obligations.OutPushesRegister : Prop :=
  ∀ (r : RegId) (dev : BitVec 5) (s : State),
    encode (.out r dev) = encodeIO 0o62 r.bits dev
    ∧ ∃ u t, s.SameButControl u ∧ u.control = .fetch ∧ exec (.out r dev) s = .next t
      ∧ t = { u with devices := t.devices }
      ∧ t.device dev = s.device dev ++ [s.regs.get r] ∧ ∀ d ≠ dev, t.device d = s.device d

/-- nonEmptyBit: 1 if the buffer holds a word, else 0; size: the number of words mod 2^16; draw: some value,
and the model's own counter of free values changes. No buffer and nothing else but internal registers
changes. (R342) -/
def Obligations.ChkReadsStatus : Prop :=
  ∀ (r : RegId) (dev : BitVec 5) (s : State),
    encode (.chk r dev) = encodeIO 0o63 r.bits dev
    ∧ ∃ u, s.SameButControl u ∧ u.control = .fetch
      ∧ (s.cfg.chkMode = .nonEmptyBit →
          exec (.chk r dev) s = .next (u.setReg r (if s.device dev = [] then 0 else 1)))
      ∧ (s.cfg.chkMode = .size →
          exec (.chk r dev) s = .next (u.setReg r (BitVec.ofNat 16 (s.device dev).length)))
      ∧ (s.cfg.chkMode = .draw →
          ∃ (v : Word) (d : Nat), exec (.chk r dev) s = .next { u with regs := s.regs.set r v, draws := d })

/-- HLT only clears MSR.running, and leaves phase 5 with its record; a later tick performs that Result
Store, which has no effect but phase 1 and no record. (R343) -/
def Obligations.HltStopsTheRunLoop : Prop :=
  ∀ s : State,
    encode .hlt = encodeHlt 0o00
    ∧ ∃ c : Record, c.instr = .hlt
      ∧ exec .hlt s = .next { s with msr := { s.msr with running := false }, control := .resultStore c }
      ∧ (s.Live →
          tick { s with msr := { s.msr with running := false }, control := .resultStore c }
            = .next { s with msr := { s.msr with running := false }, control := .fetch })

/-- With bits 9..4 zero and the table entry inside memory: the word at address 2 is PC, supervisor is set,
PC is the entry's word mod 2^12, nothing else but internal registers changes (no MFR flag, no R0). With the
entry beyond memory Fault(3), and with bits 9..4 nonzero Fault(1), is dispatched from a state in which
nothing but internal registers has changed. (R350) -/
def Obligations.TrapEntersThroughTable : Prop :=
  ∀ (hi : BitVec 6) (code : BitVec 4) (s : State) (entry : Addr), s.cfg.Valid → s.mem.wf → s.Coherent →
    entry = BitVec.ofNat 12 ((s.mem.read 0).toNat + code.toNat) →
    encode (.trap hi code) = encodeTrap 0o30 hi code
    ∧ (hi = 0 → entry.toNat < s.cfg.wordCount →
        ∃ (u : State) (m : Memory), s.SameButAccess u ∧ u.iar = s.iar ∧ u.control = .fetch
          ∧ (∀ a, m.read a = if a = 2 then s.pc.setWidth 16 else s.mem.read a)
          ∧ exec (.trap hi code) s
            = .next { u with mem := m, msr := { s.msr with supervisor := true },
                             pc := (s.mem.read entry.toNat).setWidth 12 })
    ∧ (hi = 0 → s.cfg.wordCount ≤ entry.toNat →
        ∃ u, s.SameButAccess u ∧ u.iar = s.iar ∧ u.Coherent ∧ exec (.trap hi code) s = .next (faultDispatch .beyondLimit u))
    ∧ (hi ≠ 0 → ∃ u, s.SameButControl u ∧ u.Coherent ∧ exec (.trap hi code) s = .next (faultDispatch .illegalTrapCode u))

/-- With WORD_COUNT at most 4096: if the block ends at or below WORD_COUNT, memory afterwards holds the
words from the start address on and is unchanged elsewhere; a block that would write beyond changes nothing.
A string gives a word exactly when it has 16 characters, each 0 or 1, and then its character k is bit 15 -
k; a program of such strings is loaded as their words. (R412) -/
def Obligations.LoadProgramWritesBlock : Prop :=
  ∀ (s : State) (words : List Word) (start : Nat), s.mem.wf → s.cfg.wordCount ≤ 4096 →
    (start + words.length ≤ s.cfg.wordCount →
      ∀ a, (s.loadProgram words start).mem.read a
        = if h : start ≤ a ∧ a < start + words.length then words[a - start]'(by omega) else s.mem.read a)
    ∧ (words ≠ [] → s.cfg.wordCount < start + words.length → s.loadProgram words start = s)
    ∧ (∀ (text : List Char) (w : Word), wordOfDigits text = some w ↔
        text.length = 16 ∧ (∀ c ∈ text, c = '0' ∨ c = '1')
          ∧ ∀ k < 16, w.getLsbD (15 - k) = decide (text[k]? = some '1'))
    ∧ ∀ texts : List (List Char), texts.map wordOfDigits = words.map some →
        s.loadProgramDigits texts start = s.loadProgram words start
end

