-- ==== Sys2Proof/Laws/State.lean ====
section
/-! SUPPORT. One lemma for each field of State under each named update. -/

namespace Sys2Proof.Machine

/-! setReg -/

@[simp] theorem State.setReg_cfg (s : State) (i : RegId) (v : Word) : (s.setReg i v).cfg = s.cfg := rfl
@[simp] theorem State.setReg_regs (s : State) (i : RegId) (v : Word) : (s.setReg i v).regs = s.regs.set i v := rfl
@[simp] theorem State.setReg_index (s : State) (i : RegId) (v : Word) : (s.setReg i v).index = s.index := rfl
@[simp] theorem State.setReg_fregs (s : State) (i : RegId) (v : Word) : (s.setReg i v).fregs = s.fregs := rfl
@[simp] theorem State.setReg_pc (s : State) (i : RegId) (v : Word) : (s.setReg i v).pc = s.pc := rfl
@[simp] theorem State.setReg_cc (s : State) (i : RegId) (v : Word) : (s.setReg i v).cc = s.cc := rfl
@[simp] theorem State.setReg_msr (s : State) (i : RegId) (v : Word) : (s.setReg i v).msr = s.msr := rfl
@[simp] theorem State.setReg_mfr (s : State) (i : RegId) (v : Word) : (s.setReg i v).mfr = s.mfr := rfl
@[simp] theorem State.setReg_ir (s : State) (i : RegId) (v : Word) : (s.setReg i v).ir = s.ir := rfl
@[simp] theorem State.setReg_mar (s : State) (i : RegId) (v : Word) : (s.setReg i v).mar = s.mar := rfl
@[simp] theorem State.setReg_mbr (s : State) (i : RegId) (v : Word) : (s.setReg i v).mbr = s.mbr := rfl
@[simp] theorem State.setReg_iar (s : State) (i : RegId) (v : Word) : (s.setReg i v).iar = s.iar := rfl
@[simp] theorem State.setReg_alu (s : State) (i : RegId) (v : Word) : (s.setReg i v).alu = s.alu := rfl
@[simp] theorem State.setReg_fpu (s : State) (i : RegId) (v : Word) : (s.setReg i v).fpu = s.fpu := rfl
@[simp] theorem State.setReg_control (s : State) (i : RegId) (v : Word) : (s.setReg i v).control = s.control := rfl
@[simp] theorem State.setReg_mem (s : State) (i : RegId) (v : Word) : (s.setReg i v).mem = s.mem := rfl
@[simp] theorem State.setReg_cache (s : State) (i : RegId) (v : Word) : (s.setReg i v).cache = s.cache := rfl
@[simp] theorem State.setReg_devices (s : State) (i : RegId) (v : Word) : (s.setReg i v).devices = s.devices := rfl
@[simp] theorem State.setReg_fatal (s : State) (i : RegId) (v : Word) : (s.setReg i v).fatal = s.fatal := rfl
@[simp] theorem State.setReg_refused (s : State) (i : RegId) (v : Word) : (s.setReg i v).refused = s.refused := rfl
@[simp] theorem State.setReg_draws (s : State) (i : RegId) (v : Word) : (s.setReg i v).draws = s.draws := rfl

/-! setIndex -/

@[simp] theorem State.setIndex_cfg (s : State) (i : IndexId) (v : Word) : (s.setIndex i v).cfg = s.cfg := rfl
@[simp] theorem State.setIndex_regs (s : State) (i : IndexId) (v : Word) : (s.setIndex i v).regs = s.regs := rfl
@[simp] theorem State.setIndex_index (s : State) (i : IndexId) (v : Word) : (s.setIndex i v).index = s.index.set i v := rfl
@[simp] theorem State.setIndex_fregs (s : State) (i : IndexId) (v : Word) : (s.setIndex i v).fregs = s.fregs := rfl
@[simp] theorem State.setIndex_pc (s : State) (i : IndexId) (v : Word) : (s.setIndex i v).pc = s.pc := rfl
@[simp] theorem State.setIndex_cc (s : State) (i : IndexId) (v : Word) : (s.setIndex i v).cc = s.cc := rfl
@[simp] theorem State.setIndex_msr (s : State) (i : IndexId) (v : Word) : (s.setIndex i v).msr = s.msr := rfl
@[simp] theorem State.setIndex_mfr (s : State) (i : IndexId) (v : Word) : (s.setIndex i v).mfr = s.mfr := rfl
@[simp] theorem State.setIndex_ir (s : State) (i : IndexId) (v : Word) : (s.setIndex i v).ir = s.ir := rfl
@[simp] theorem State.setIndex_mar (s : State) (i : IndexId) (v : Word) : (s.setIndex i v).mar = s.mar := rfl
@[simp] theorem State.setIndex_mbr (s : State) (i : IndexId) (v : Word) : (s.setIndex i v).mbr = s.mbr := rfl
@[simp] theorem State.setIndex_iar (s : State) (i : IndexId) (v : Word) : (s.setIndex i v).iar = s.iar := rfl
@[simp] theorem State.setIndex_alu (s : State) (i : IndexId) (v : Word) : (s.setIndex i v).alu = s.alu := rfl
@[simp] theorem State.setIndex_fpu (s : State) (i : IndexId) (v : Word) : (s.setIndex i v).fpu = s.fpu := rfl
@[simp] theorem State.setIndex_control (s : State) (i : IndexId) (v : Word) : (s.setIndex i v).control = s.control := rfl
@[simp] theorem State.setIndex_mem (s : State) (i : IndexId) (v : Word) : (s.setIndex i v).mem = s.mem := rfl
@[simp] theorem State.setIndex_cache (s : State) (i : IndexId) (v : Word) : (s.setIndex i v).cache = s.cache := rfl
@[simp] theorem State.setIndex_devices (s : State) (i : IndexId) (v : Word) : (s.setIndex i v).devices = s.devices := rfl
@[simp] theorem State.setIndex_fatal (s : State) (i : IndexId) (v : Word) : (s.setIndex i v).fatal = s.fatal := rfl
@[simp] theorem State.setIndex_refused (s : State) (i : IndexId) (v : Word) : (s.setIndex i v).refused = s.refused := rfl
@[simp] theorem State.setIndex_draws (s : State) (i : IndexId) (v : Word) : (s.setIndex i v).draws = s.draws := rfl

/-! setFloat -/

@[simp] theorem State.setFloat_cfg (s : State) (i : FloatReg) (v : Word) : (s.setFloat i v).cfg = s.cfg := rfl
@[simp] theorem State.setFloat_regs (s : State) (i : FloatReg) (v : Word) : (s.setFloat i v).regs = s.regs := rfl
@[simp] theorem State.setFloat_index (s : State) (i : FloatReg) (v : Word) : (s.setFloat i v).index = s.index := rfl
@[simp] theorem State.setFloat_fregs (s : State) (i : FloatReg) (v : Word) : (s.setFloat i v).fregs = s.fregs.set i v := rfl
@[simp] theorem State.setFloat_pc (s : State) (i : FloatReg) (v : Word) : (s.setFloat i v).pc = s.pc := rfl
@[simp] theorem State.setFloat_cc (s : State) (i : FloatReg) (v : Word) : (s.setFloat i v).cc = s.cc := rfl
@[simp] theorem State.setFloat_msr (s : State) (i : FloatReg) (v : Word) : (s.setFloat i v).msr = s.msr := rfl
@[simp] theorem State.setFloat_mfr (s : State) (i : FloatReg) (v : Word) : (s.setFloat i v).mfr = s.mfr := rfl
@[simp] theorem State.setFloat_ir (s : State) (i : FloatReg) (v : Word) : (s.setFloat i v).ir = s.ir := rfl
@[simp] theorem State.setFloat_mar (s : State) (i : FloatReg) (v : Word) : (s.setFloat i v).mar = s.mar := rfl
@[simp] theorem State.setFloat_mbr (s : State) (i : FloatReg) (v : Word) : (s.setFloat i v).mbr = s.mbr := rfl
@[simp] theorem State.setFloat_iar (s : State) (i : FloatReg) (v : Word) : (s.setFloat i v).iar = s.iar := rfl
@[simp] theorem State.setFloat_alu (s : State) (i : FloatReg) (v : Word) : (s.setFloat i v).alu = s.alu := rfl
@[simp] theorem State.setFloat_fpu (s : State) (i : FloatReg) (v : Word) : (s.setFloat i v).fpu = s.fpu := rfl
@[simp] theorem State.setFloat_control (s : State) (i : FloatReg) (v : Word) : (s.setFloat i v).control = s.control := rfl
@[simp] theorem State.setFloat_mem (s : State) (i : FloatReg) (v : Word) : (s.setFloat i v).mem = s.mem := rfl
@[simp] theorem State.setFloat_cache (s : State) (i : FloatReg) (v : Word) : (s.setFloat i v).cache = s.cache := rfl
@[simp] theorem State.setFloat_devices (s : State) (i : FloatReg) (v : Word) : (s.setFloat i v).devices = s.devices := rfl
@[simp] theorem State.setFloat_fatal (s : State) (i : FloatReg) (v : Word) : (s.setFloat i v).fatal = s.fatal := rfl
@[simp] theorem State.setFloat_refused (s : State) (i : FloatReg) (v : Word) : (s.setFloat i v).refused = s.refused := rfl
@[simp] theorem State.setFloat_draws (s : State) (i : FloatReg) (v : Word) : (s.setFloat i v).draws = s.draws := rfl

/-! setPc -/

@[simp] theorem State.setPc_cfg (s : State) (v : Word) : (s.setPc v).cfg = s.cfg := rfl
@[simp] theorem State.setPc_regs (s : State) (v : Word) : (s.setPc v).regs = s.regs := rfl
@[simp] theorem State.setPc_index (s : State) (v : Word) : (s.setPc v).index = s.index := rfl
@[simp] theorem State.setPc_fregs (s : State) (v : Word) : (s.setPc v).fregs = s.fregs := rfl
@[simp] theorem State.setPc_pc (s : State) (v : Word) : (s.setPc v).pc = v.setWidth 12 := rfl
@[simp] theorem State.setPc_cc (s : State) (v : Word) : (s.setPc v).cc = s.cc := rfl
@[simp] theorem State.setPc_msr (s : State) (v : Word) : (s.setPc v).msr = s.msr := rfl
@[simp] theorem State.setPc_mfr (s : State) (v : Word) : (s.setPc v).mfr = s.mfr := rfl
@[simp] theorem State.setPc_ir (s : State) (v : Word) : (s.setPc v).ir = s.ir := rfl
@[simp] theorem State.setPc_mar (s : State) (v : Word) : (s.setPc v).mar = s.mar := rfl
@[simp] theorem State.setPc_mbr (s : State) (v : Word) : (s.setPc v).mbr = s.mbr := rfl
@[simp] theorem State.setPc_iar (s : State) (v : Word) : (s.setPc v).iar = s.iar := rfl
@[simp] theorem State.setPc_alu (s : State) (v : Word) : (s.setPc v).alu = s.alu := rfl
@[simp] theorem State.setPc_fpu (s : State) (v : Word) : (s.setPc v).fpu = s.fpu := rfl
@[simp] theorem State.setPc_control (s : State) (v : Word) : (s.setPc v).control = s.control := rfl
@[simp] theorem State.setPc_mem (s : State) (v : Word) : (s.setPc v).mem = s.mem := rfl
@[simp] theorem State.setPc_cache (s : State) (v : Word) : (s.setPc v).cache = s.cache := rfl
@[simp] theorem State.setPc_devices (s : State) (v : Word) : (s.setPc v).devices = s.devices := rfl
@[simp] theorem State.setPc_fatal (s : State) (v : Word) : (s.setPc v).fatal = s.fatal := rfl
@[simp] theorem State.setPc_refused (s : State) (v : Word) : (s.setPc v).refused = s.refused := rfl
@[simp] theorem State.setPc_draws (s : State) (v : Word) : (s.setPc v).draws = s.draws := rfl

/-! stopRunning -/

@[simp] theorem State.stopRunning_cfg (s : State) : (s.stopRunning).cfg = s.cfg := rfl
@[simp] theorem State.stopRunning_regs (s : State) : (s.stopRunning).regs = s.regs := rfl
@[simp] theorem State.stopRunning_index (s : State) : (s.stopRunning).index = s.index := rfl
@[simp] theorem State.stopRunning_fregs (s : State) : (s.stopRunning).fregs = s.fregs := rfl
@[simp] theorem State.stopRunning_pc (s : State) : (s.stopRunning).pc = s.pc := rfl
@[simp] theorem State.stopRunning_cc (s : State) : (s.stopRunning).cc = s.cc := rfl
@[simp] theorem State.stopRunning_msr (s : State) : (s.stopRunning).msr = { s.msr with running := false } := rfl
@[simp] theorem State.stopRunning_mfr (s : State) : (s.stopRunning).mfr = s.mfr := rfl
@[simp] theorem State.stopRunning_ir (s : State) : (s.stopRunning).ir = s.ir := rfl
@[simp] theorem State.stopRunning_mar (s : State) : (s.stopRunning).mar = s.mar := rfl
@[simp] theorem State.stopRunning_mbr (s : State) : (s.stopRunning).mbr = s.mbr := rfl
@[simp] theorem State.stopRunning_iar (s : State) : (s.stopRunning).iar = s.iar := rfl
@[simp] theorem State.stopRunning_alu (s : State) : (s.stopRunning).alu = s.alu := rfl
@[simp] theorem State.stopRunning_fpu (s : State) : (s.stopRunning).fpu = s.fpu := rfl
@[simp] theorem State.stopRunning_control (s : State) : (s.stopRunning).control = s.control := rfl
@[simp] theorem State.stopRunning_mem (s : State) : (s.stopRunning).mem = s.mem := rfl
@[simp] theorem State.stopRunning_cache (s : State) : (s.stopRunning).cache = s.cache := rfl
@[simp] theorem State.stopRunning_devices (s : State) : (s.stopRunning).devices = s.devices := rfl
@[simp] theorem State.stopRunning_fatal (s : State) : (s.stopRunning).fatal = s.fatal := rfl
@[simp] theorem State.stopRunning_refused (s : State) : (s.stopRunning).refused = s.refused := rfl
@[simp] theorem State.stopRunning_draws (s : State) : (s.stopRunning).draws = s.draws := rfl

/-! setControl -/

@[simp] theorem State.setControl_cfg (s : State) (k : Control) : (s.setControl k).cfg = s.cfg := rfl
@[simp] theorem State.setControl_regs (s : State) (k : Control) : (s.setControl k).regs = s.regs := rfl
@[simp] theorem State.setControl_index (s : State) (k : Control) : (s.setControl k).index = s.index := rfl
@[simp] theorem State.setControl_fregs (s : State) (k : Control) : (s.setControl k).fregs = s.fregs := rfl
@[simp] theorem State.setControl_pc (s : State) (k : Control) : (s.setControl k).pc = s.pc := rfl
@[simp] theorem State.setControl_cc (s : State) (k : Control) : (s.setControl k).cc = s.cc := rfl
@[simp] theorem State.setControl_msr (s : State) (k : Control) : (s.setControl k).msr = s.msr := rfl
@[simp] theorem State.setControl_mfr (s : State) (k : Control) : (s.setControl k).mfr = s.mfr := rfl
@[simp] theorem State.setControl_ir (s : State) (k : Control) : (s.setControl k).ir = s.ir := rfl
@[simp] theorem State.setControl_mar (s : State) (k : Control) : (s.setControl k).mar = s.mar := rfl
@[simp] theorem State.setControl_mbr (s : State) (k : Control) : (s.setControl k).mbr = s.mbr := rfl
@[simp] theorem State.setControl_iar (s : State) (k : Control) : (s.setControl k).iar = s.iar := rfl
@[simp] theorem State.setControl_alu (s : State) (k : Control) : (s.setControl k).alu = s.alu := rfl
@[simp] theorem State.setControl_fpu (s : State) (k : Control) : (s.setControl k).fpu = s.fpu := rfl
@[simp] theorem State.setControl_control (s : State) (k : Control) : (s.setControl k).control = k := rfl
@[simp] theorem State.setControl_mem (s : State) (k : Control) : (s.setControl k).mem = s.mem := rfl
@[simp] theorem State.setControl_cache (s : State) (k : Control) : (s.setControl k).cache = s.cache := rfl
@[simp] theorem State.setControl_devices (s : State) (k : Control) : (s.setControl k).devices = s.devices := rfl
@[simp] theorem State.setControl_fatal (s : State) (k : Control) : (s.setControl k).fatal = s.fatal := rfl
@[simp] theorem State.setControl_refused (s : State) (k : Control) : (s.setControl k).refused = s.refused := rfl
@[simp] theorem State.setControl_draws (s : State) (k : Control) : (s.setControl k).draws = s.draws := rfl

/-! refuse -/

@[simp] theorem State.refuse_cfg (s : State) (r : RefuseReason) : (s.refuse r).cfg = s.cfg := rfl
@[simp] theorem State.refuse_regs (s : State) (r : RefuseReason) : (s.refuse r).regs = s.regs := rfl
@[simp] theorem State.refuse_index (s : State) (r : RefuseReason) : (s.refuse r).index = s.index := rfl
@[simp] theorem State.refuse_fregs (s : State) (r : RefuseReason) : (s.refuse r).fregs = s.fregs := rfl
@[simp] theorem State.refuse_pc (s : State) (r : RefuseReason) : (s.refuse r).pc = s.pc := rfl
@[simp] theorem State.refuse_cc (s : State) (r : RefuseReason) : (s.refuse r).cc = s.cc := rfl
@[simp] theorem State.refuse_msr (s : State) (r : RefuseReason) : (s.refuse r).msr = s.msr := rfl
@[simp] theorem State.refuse_mfr (s : State) (r : RefuseReason) : (s.refuse r).mfr = s.mfr := rfl
@[simp] theorem State.refuse_ir (s : State) (r : RefuseReason) : (s.refuse r).ir = s.ir := rfl
@[simp] theorem State.refuse_mar (s : State) (r : RefuseReason) : (s.refuse r).mar = s.mar := rfl
@[simp] theorem State.refuse_mbr (s : State) (r : RefuseReason) : (s.refuse r).mbr = s.mbr := rfl
@[simp] theorem State.refuse_iar (s : State) (r : RefuseReason) : (s.refuse r).iar = s.iar := rfl
@[simp] theorem State.refuse_alu (s : State) (r : RefuseReason) : (s.refuse r).alu = s.alu := rfl
@[simp] theorem State.refuse_fpu (s : State) (r : RefuseReason) : (s.refuse r).fpu = s.fpu := rfl
@[simp] theorem State.refuse_control (s : State) (r : RefuseReason) : (s.refuse r).control = s.control := rfl
@[simp] theorem State.refuse_mem (s : State) (r : RefuseReason) : (s.refuse r).mem = s.mem := rfl
@[simp] theorem State.refuse_cache (s : State) (r : RefuseReason) : (s.refuse r).cache = s.cache := rfl
@[simp] theorem State.refuse_devices (s : State) (r : RefuseReason) : (s.refuse r).devices = s.devices := rfl
@[simp] theorem State.refuse_fatal (s : State) (r : RefuseReason) : (s.refuse r).fatal = s.fatal := rfl
@[simp] theorem State.refuse_refused (s : State) (r : RefuseReason) : (s.refuse r).refused = some r := rfl
@[simp] theorem State.refuse_draws (s : State) (r : RefuseReason) : (s.refuse r).draws = s.draws := rfl

/-! setDevice -/

@[simp] theorem State.setDevice_cfg (s : State) (d : BitVec 5) (q : List Word) : (s.setDevice d q).cfg = s.cfg := rfl
@[simp] theorem State.setDevice_regs (s : State) (d : BitVec 5) (q : List Word) : (s.setDevice d q).regs = s.regs := rfl
@[simp] theorem State.setDevice_index (s : State) (d : BitVec 5) (q : List Word) : (s.setDevice d q).index = s.index := rfl
@[simp] theorem State.setDevice_fregs (s : State) (d : BitVec 5) (q : List Word) : (s.setDevice d q).fregs = s.fregs := rfl
@[simp] theorem State.setDevice_pc (s : State) (d : BitVec 5) (q : List Word) : (s.setDevice d q).pc = s.pc := rfl
@[simp] theorem State.setDevice_cc (s : State) (d : BitVec 5) (q : List Word) : (s.setDevice d q).cc = s.cc := rfl
@[simp] theorem State.setDevice_msr (s : State) (d : BitVec 5) (q : List Word) : (s.setDevice d q).msr = s.msr := rfl
@[simp] theorem State.setDevice_mfr (s : State) (d : BitVec 5) (q : List Word) : (s.setDevice d q).mfr = s.mfr := rfl
@[simp] theorem State.setDevice_ir (s : State) (d : BitVec 5) (q : List Word) : (s.setDevice d q).ir = s.ir := rfl
@[simp] theorem State.setDevice_mar (s : State) (d : BitVec 5) (q : List Word) : (s.setDevice d q).mar = s.mar := rfl
@[simp] theorem State.setDevice_mbr (s : State) (d : BitVec 5) (q : List Word) : (s.setDevice d q).mbr = s.mbr := rfl
@[simp] theorem State.setDevice_iar (s : State) (d : BitVec 5) (q : List Word) : (s.setDevice d q).iar = s.iar := rfl
@[simp] theorem State.setDevice_alu (s : State) (d : BitVec 5) (q : List Word) : (s.setDevice d q).alu = s.alu := rfl
@[simp] theorem State.setDevice_fpu (s : State) (d : BitVec 5) (q : List Word) : (s.setDevice d q).fpu = s.fpu := rfl
@[simp] theorem State.setDevice_control (s : State) (d : BitVec 5) (q : List Word) : (s.setDevice d q).control = s.control := rfl
@[simp] theorem State.setDevice_mem (s : State) (d : BitVec 5) (q : List Word) : (s.setDevice d q).mem = s.mem := rfl
@[simp] theorem State.setDevice_cache (s : State) (d : BitVec 5) (q : List Word) : (s.setDevice d q).cache = s.cache := rfl
@[simp] theorem State.setDevice_devices (s : State) (d : BitVec 5) (q : List Word) : (s.setDevice d q).devices = s.devices.set d.toNat q d.isLt := rfl
@[simp] theorem State.setDevice_fatal (s : State) (d : BitVec 5) (q : List Word) : (s.setDevice d q).fatal = s.fatal := rfl
@[simp] theorem State.setDevice_refused (s : State) (d : BitVec 5) (q : List Word) : (s.setDevice d q).refused = s.refused := rfl
@[simp] theorem State.setDevice_draws (s : State) (d : BitVec 5) (q : List Word) : (s.setDevice d q).draws = s.draws := rfl

/-! drawn -/

@[simp] theorem State.drawn_cfg (s : State) (n : Nat) : (s.drawn n).cfg = s.cfg := rfl
@[simp] theorem State.drawn_regs (s : State) (n : Nat) : (s.drawn n).regs = s.regs := rfl
@[simp] theorem State.drawn_index (s : State) (n : Nat) : (s.drawn n).index = s.index := rfl
@[simp] theorem State.drawn_fregs (s : State) (n : Nat) : (s.drawn n).fregs = s.fregs := rfl
@[simp] theorem State.drawn_pc (s : State) (n : Nat) : (s.drawn n).pc = s.pc := rfl
@[simp] theorem State.drawn_cc (s : State) (n : Nat) : (s.drawn n).cc = s.cc := rfl
@[simp] theorem State.drawn_msr (s : State) (n : Nat) : (s.drawn n).msr = s.msr := rfl
@[simp] theorem State.drawn_mfr (s : State) (n : Nat) : (s.drawn n).mfr = s.mfr := rfl
@[simp] theorem State.drawn_ir (s : State) (n : Nat) : (s.drawn n).ir = s.ir := rfl
@[simp] theorem State.drawn_mar (s : State) (n : Nat) : (s.drawn n).mar = s.mar := rfl
@[simp] theorem State.drawn_mbr (s : State) (n : Nat) : (s.drawn n).mbr = s.mbr := rfl
@[simp] theorem State.drawn_iar (s : State) (n : Nat) : (s.drawn n).iar = s.iar := rfl
@[simp] theorem State.drawn_alu (s : State) (n : Nat) : (s.drawn n).alu = s.alu := rfl
@[simp] theorem State.drawn_fpu (s : State) (n : Nat) : (s.drawn n).fpu = s.fpu := rfl
@[simp] theorem State.drawn_control (s : State) (n : Nat) : (s.drawn n).control = s.control := rfl
@[simp] theorem State.drawn_mem (s : State) (n : Nat) : (s.drawn n).mem = s.mem := rfl
@[simp] theorem State.drawn_cache (s : State) (n : Nat) : (s.drawn n).cache = s.cache := rfl
@[simp] theorem State.drawn_devices (s : State) (n : Nat) : (s.drawn n).devices = s.devices := rfl
@[simp] theorem State.drawn_fatal (s : State) (n : Nat) : (s.drawn n).fatal = s.fatal := rfl
@[simp] theorem State.drawn_refused (s : State) (n : Nat) : (s.drawn n).refused = s.refused := rfl
@[simp] theorem State.drawn_draws (s : State) (n : Nat) : (s.drawn n).draws = s.draws + n := rfl

/-! aluStep -/

@[simp] theorem State.aluStep_cfg (s : State) (l : AluLatches) (f : CC) : (s.aluStep l f).cfg = s.cfg := rfl
@[simp] theorem State.aluStep_regs (s : State) (l : AluLatches) (f : CC) : (s.aluStep l f).regs = s.regs := rfl
@[simp] theorem State.aluStep_index (s : State) (l : AluLatches) (f : CC) : (s.aluStep l f).index = s.index := rfl
@[simp] theorem State.aluStep_fregs (s : State) (l : AluLatches) (f : CC) : (s.aluStep l f).fregs = s.fregs := rfl
@[simp] theorem State.aluStep_pc (s : State) (l : AluLatches) (f : CC) : (s.aluStep l f).pc = s.pc := rfl
@[simp] theorem State.aluStep_cc (s : State) (l : AluLatches) (f : CC) : (s.aluStep l f).cc = f := rfl
@[simp] theorem State.aluStep_msr (s : State) (l : AluLatches) (f : CC) : (s.aluStep l f).msr = s.msr := rfl
@[simp] theorem State.aluStep_mfr (s : State) (l : AluLatches) (f : CC) : (s.aluStep l f).mfr = s.mfr := rfl
@[simp] theorem State.aluStep_ir (s : State) (l : AluLatches) (f : CC) : (s.aluStep l f).ir = s.ir := rfl
@[simp] theorem State.aluStep_mar (s : State) (l : AluLatches) (f : CC) : (s.aluStep l f).mar = s.mar := rfl
@[simp] theorem State.aluStep_mbr (s : State) (l : AluLatches) (f : CC) : (s.aluStep l f).mbr = s.mbr := rfl
@[simp] theorem State.aluStep_iar (s : State) (l : AluLatches) (f : CC) : (s.aluStep l f).iar = s.iar := rfl
@[simp] theorem State.aluStep_alu (s : State) (l : AluLatches) (f : CC) : (s.aluStep l f).alu = l := rfl
@[simp] theorem State.aluStep_fpu (s : State) (l : AluLatches) (f : CC) : (s.aluStep l f).fpu = s.fpu := rfl
@[simp] theorem State.aluStep_control (s : State) (l : AluLatches) (f : CC) : (s.aluStep l f).control = s.control := rfl
@[simp] theorem State.aluStep_mem (s : State) (l : AluLatches) (f : CC) : (s.aluStep l f).mem = s.mem := rfl
@[simp] theorem State.aluStep_cache (s : State) (l : AluLatches) (f : CC) : (s.aluStep l f).cache = s.cache := rfl
@[simp] theorem State.aluStep_devices (s : State) (l : AluLatches) (f : CC) : (s.aluStep l f).devices = s.devices := rfl
@[simp] theorem State.aluStep_fatal (s : State) (l : AluLatches) (f : CC) : (s.aluStep l f).fatal = s.fatal := rfl
@[simp] theorem State.aluStep_refused (s : State) (l : AluLatches) (f : CC) : (s.aluStep l f).refused = s.refused := rfl
@[simp] theorem State.aluStep_draws (s : State) (l : AluLatches) (f : CC) : (s.aluStep l f).draws = s.draws := rfl

/-! afterLoad -/

@[simp] theorem State.afterLoad_cfg (s : State) (a : Addr) : (s.afterLoad a).cfg = s.cfg := rfl
@[simp] theorem State.afterLoad_regs (s : State) (a : Addr) : (s.afterLoad a).regs = s.regs := rfl
@[simp] theorem State.afterLoad_index (s : State) (a : Addr) : (s.afterLoad a).index = s.index := rfl
@[simp] theorem State.afterLoad_fregs (s : State) (a : Addr) : (s.afterLoad a).fregs = s.fregs := rfl
@[simp] theorem State.afterLoad_pc (s : State) (a : Addr) : (s.afterLoad a).pc = s.pc := rfl
@[simp] theorem State.afterLoad_cc (s : State) (a : Addr) : (s.afterLoad a).cc = s.cc := rfl
@[simp] theorem State.afterLoad_msr (s : State) (a : Addr) : (s.afterLoad a).msr = s.msr := rfl
@[simp] theorem State.afterLoad_mfr (s : State) (a : Addr) : (s.afterLoad a).mfr = s.mfr := rfl
@[simp] theorem State.afterLoad_ir (s : State) (a : Addr) : (s.afterLoad a).ir = s.ir := rfl
@[simp] theorem State.afterLoad_mar (s : State) (a : Addr) : (s.afterLoad a).mar = a := rfl
@[simp] theorem State.afterLoad_mbr (s : State) (a : Addr) : (s.afterLoad a).mbr = s.cachedWord a := rfl
@[simp] theorem State.afterLoad_iar (s : State) (a : Addr) : (s.afterLoad a).iar = s.iar := rfl
@[simp] theorem State.afterLoad_alu (s : State) (a : Addr) : (s.afterLoad a).alu = s.alu := rfl
@[simp] theorem State.afterLoad_fpu (s : State) (a : Addr) : (s.afterLoad a).fpu = s.fpu := rfl
@[simp] theorem State.afterLoad_control (s : State) (a : Addr) : (s.afterLoad a).control = s.control := rfl
@[simp] theorem State.afterLoad_mem (s : State) (a : Addr) : (s.afterLoad a).mem = s.mem := rfl
@[simp] theorem State.afterLoad_cache (s : State) (a : Addr) : (s.afterLoad a).cache = s.cacheAfterRead a := rfl
@[simp] theorem State.afterLoad_devices (s : State) (a : Addr) : (s.afterLoad a).devices = s.devices := rfl
@[simp] theorem State.afterLoad_fatal (s : State) (a : Addr) : (s.afterLoad a).fatal = s.fatal := rfl
@[simp] theorem State.afterLoad_refused (s : State) (a : Addr) : (s.afterLoad a).refused = s.refused := rfl
@[simp] theorem State.afterLoad_draws (s : State) (a : Addr) : (s.afterLoad a).draws = s.draws := rfl

/-! storeWord -/

@[simp] theorem State.storeWord_cfg (s : State) (a : Addr) (v : Word) : (s.storeWord a v).cfg = s.cfg := rfl
@[simp] theorem State.storeWord_regs (s : State) (a : Addr) (v : Word) : (s.storeWord a v).regs = s.regs := rfl
@[simp] theorem State.storeWord_index (s : State) (a : Addr) (v : Word) : (s.storeWord a v).index = s.index := rfl
@[simp] theorem State.storeWord_fregs (s : State) (a : Addr) (v : Word) : (s.storeWord a v).fregs = s.fregs := rfl
@[simp] theorem State.storeWord_pc (s : State) (a : Addr) (v : Word) : (s.storeWord a v).pc = s.pc := rfl
@[simp] theorem State.storeWord_cc (s : State) (a : Addr) (v : Word) : (s.storeWord a v).cc = s.cc := rfl
@[simp] theorem State.storeWord_msr (s : State) (a : Addr) (v : Word) : (s.storeWord a v).msr = s.msr := rfl
@[simp] theorem State.storeWord_mfr (s : State) (a : Addr) (v : Word) : (s.storeWord a v).mfr = s.mfr := rfl
@[simp] theorem State.storeWord_ir (s : State) (a : Addr) (v : Word) : (s.storeWord a v).ir = s.ir := rfl
@[simp] theorem State.storeWord_mar (s : State) (a : Addr) (v : Word) : (s.storeWord a v).mar = a := rfl
@[simp] theorem State.storeWord_mbr (s : State) (a : Addr) (v : Word) : (s.storeWord a v).mbr = v := rfl
@[simp] theorem State.storeWord_iar (s : State) (a : Addr) (v : Word) : (s.storeWord a v).iar = s.iar := rfl
@[simp] theorem State.storeWord_alu (s : State) (a : Addr) (v : Word) : (s.storeWord a v).alu = s.alu := rfl
@[simp] theorem State.storeWord_fpu (s : State) (a : Addr) (v : Word) : (s.storeWord a v).fpu = s.fpu := rfl
@[simp] theorem State.storeWord_control (s : State) (a : Addr) (v : Word) : (s.storeWord a v).control = s.control := rfl
@[simp] theorem State.storeWord_mem (s : State) (a : Addr) (v : Word) : (s.storeWord a v).mem = s.mem.write a.toNat v := rfl
@[simp] theorem State.storeWord_cache (s : State) (a : Addr) (v : Word) : (s.storeWord a v).cache = cacheUpdate s.cache a v := rfl
@[simp] theorem State.storeWord_devices (s : State) (a : Addr) (v : Word) : (s.storeWord a v).devices = s.devices := rfl
@[simp] theorem State.storeWord_fatal (s : State) (a : Addr) (v : Word) : (s.storeWord a v).fatal = s.fatal := rfl
@[simp] theorem State.storeWord_refused (s : State) (a : Addr) (v : Word) : (s.storeWord a v).refused = s.refused := rfl
@[simp] theorem State.storeWord_draws (s : State) (a : Addr) (v : Word) : (s.storeWord a v).draws = s.draws := rfl

/-! fetched -/

@[simp] theorem State.fetched_cfg (s : State) (w : Word) : (s.fetched w).cfg = s.cfg := rfl
@[simp] theorem State.fetched_regs (s : State) (w : Word) : (s.fetched w).regs = s.regs := rfl
@[simp] theorem State.fetched_index (s : State) (w : Word) : (s.fetched w).index = s.index := rfl
@[simp] theorem State.fetched_fregs (s : State) (w : Word) : (s.fetched w).fregs = s.fregs := rfl
@[simp] theorem State.fetched_pc (s : State) (w : Word) : (s.fetched w).pc = s.pc + 1 := rfl
@[simp] theorem State.fetched_cc (s : State) (w : Word) : (s.fetched w).cc = s.cc := rfl
@[simp] theorem State.fetched_msr (s : State) (w : Word) : (s.fetched w).msr = s.msr := rfl
@[simp] theorem State.fetched_mfr (s : State) (w : Word) : (s.fetched w).mfr = s.mfr := rfl
@[simp] theorem State.fetched_ir (s : State) (w : Word) : (s.fetched w).ir = w := rfl
@[simp] theorem State.fetched_mar (s : State) (w : Word) : (s.fetched w).mar = s.mar := rfl
@[simp] theorem State.fetched_mbr (s : State) (w : Word) : (s.fetched w).mbr = s.mbr := rfl
@[simp] theorem State.fetched_iar (s : State) (w : Word) : (s.fetched w).iar = s.iar := rfl
@[simp] theorem State.fetched_alu (s : State) (w : Word) : (s.fetched w).alu = s.alu := rfl
@[simp] theorem State.fetched_fpu (s : State) (w : Word) : (s.fetched w).fpu = s.fpu := rfl
@[simp] theorem State.fetched_control (s : State) (w : Word) : (s.fetched w).control = .decode := rfl
@[simp] theorem State.fetched_mem (s : State) (w : Word) : (s.fetched w).mem = s.mem := rfl
@[simp] theorem State.fetched_cache (s : State) (w : Word) : (s.fetched w).cache = s.cache := rfl
@[simp] theorem State.fetched_devices (s : State) (w : Word) : (s.fetched w).devices = s.devices := rfl
@[simp] theorem State.fetched_fatal (s : State) (w : Word) : (s.fetched w).fatal = s.fatal := rfl
@[simp] theorem State.fetched_refused (s : State) (w : Word) : (s.fetched w).refused = s.refused := rfl
@[simp] theorem State.fetched_draws (s : State) (w : Word) : (s.fetched w).draws = s.draws := rfl

end Sys2Proof.Machine
end

