-- ==== Sys2Proof/Laws/Memory.lean ====
section
/-! SUPPORT. Registers, memory and devices: what a write leaves to be read, and that a memory write keeps
the canonical form. -/

namespace Sys2Proof.Machine

/-! Registers -/

theorem Regs.get_set (g : Regs) (i j : RegId) (v : Word) : (g.set i v).get j = if i = j then v else g.get j := by
  cases i <;> cases j <;> rfl

theorem IndexRegs.get_set (g : IndexRegs) (i j : IndexId) (v : Word) :
    (g.set i v).get j = if i = j ∧ i ≠ .x0 then v else g.get j := by
  cases i <;> cases j <;> rfl

@[simp] theorem IndexRegs.get_x0 (g : IndexRegs) : g.get .x0 = 0 := rfl

theorem FloatRegs.get_set (g : FloatRegs) (i j : FloatReg) (v : Word) :
    (g.set i v).get j = if i = j then v else g.get j := by
  cases i <;> cases j <;> rfl

/-! Memory -/

@[simp] theorem Memory.read_nil (a : Nat) : Memory.read [] a = 0 := rfl

theorem Memory.read_cons (k : Nat) (v : Word) (t : Memory) (a : Nat) :
    Memory.read ((k, v) :: t) a = if k = a then v else Memory.read t a := rfl

/-- An address below every listed one reads as unlisted. -/
theorem Memory.read_of_lt (m : Memory) (a : Nat) (h : ∀ c ∈ m, a < c.1) : Memory.read m a = 0 := by
  induction m with
  | nil => rfl
  | cons c t ih =>
    obtain ⟨k, v⟩ := c
    have hk : a < k := h (k, v) (by simp)
    rw [Memory.read_cons, if_neg (by omega)]
    exact ih (fun d hd => h d (by simp [hd]))

theorem Memory.wf_tail {c : Nat × Word} {t : Memory} (h : Memory.wf (c :: t)) : Memory.wf t :=
  ⟨(List.pairwise_cons.mp h.1).2, fun d hd => h.2 d (by simp [hd])⟩

/-- The addresses a write can list are the old ones and its own. -/
theorem Memory.mem_write_key {m : Memory} {a : Nat} {v : Word} {c : Nat × Word} (h : c ∈ m.write a v) :
    c ∈ m ∨ c = (a, v) := by
  induction m with
  | nil =>
    simp only [Memory.write] at h
    split at h <;> simp_all
  | cons d t ih =>
    obtain ⟨k, w⟩ := d
    simp only [Memory.write] at h
    split at h
    · split at h
      · exact .inl h
      · simp only [List.mem_cons] at h ⊢
        tauto
    · split at h
      · split at h
        · exact .inl (List.mem_cons_of_mem _ h)
        · simp only [List.mem_cons] at h ⊢
          tauto
      · simp only [List.mem_cons] at h ⊢
        rcases h with h | h
        · exact .inl (.inl h)
        · rcases ih h with h | h
          · exact .inl (.inr h)
          · exact .inr h

/-- A write keeps the canonical form. -/
theorem Memory.write_wf {m : Memory} (h : m.wf) (a : Nat) (v : Word) : (m.write a v).wf := by
  induction m with
  | nil =>
    simp only [Memory.write]
    split
    · exact h
    · next hv => exact ⟨by simp, by simpa using hv⟩
  | cons d t ih =>
    obtain ⟨k, w⟩ := d
    have ht := ih (Memory.wf_tail h)
    obtain ⟨hp, hn⟩ := h
    rw [List.pairwise_cons] at hp
    simp only [Memory.write]
    split
    · next hlt =>
      split
      · exact ⟨List.pairwise_cons.mpr hp, hn⟩
      · next hv =>
        refine ⟨List.pairwise_cons.mpr ⟨?_, List.pairwise_cons.mpr hp⟩, ?_⟩
        · intro c hc
          rcases List.mem_cons.mp hc with rfl | hc
          · exact hlt
          · exact lt_trans hlt (hp.1 c hc)
        · intro c hc
          rcases List.mem_cons.mp hc with rfl | hc
          · exact hv
          · exact hn c hc
    · split
      · next hge heq =>
        subst heq
        split
        · exact ⟨hp.2, fun c hc => hn c (by simp [hc])⟩
        · next hv =>
          refine ⟨List.pairwise_cons.mpr hp, ?_⟩
          intro c hc
          rcases List.mem_cons.mp hc with rfl | hc
          · exact hv
          · exact hn c (by simp [hc])
      · next hge hne =>
        refine ⟨List.pairwise_cons.mpr ⟨?_, ht.1⟩, ?_⟩
        · intro c hc
          rcases Memory.mem_write_key hc with hc | rfl
          · exact hp.1 c hc
          · show k < a
            omega
        · intro c hc
          rcases List.mem_cons.mp hc with rfl | hc
          · exact hn _ (by simp)
          · exact ht.2 c hc

/-- A read after a write to the same place gives the word written; a write leaves every other place alone. -/
theorem Memory.read_write {m : Memory} (h : m.wf) (a : Nat) (v : Word) (b : Nat) :
    (m.write a v).read b = if b = a then v else m.read b := by
  induction m with
  | nil =>
    simp only [Memory.write]
    split
    · next hv => split <;> simp [hv]
    · rw [Memory.read_cons]; simp only [eq_comm]
  | cons d t ih =>
    obtain ⟨k, w⟩ := d
    have ht := ih (Memory.wf_tail h)
    have hp := List.pairwise_cons.mp h.1
    simp only [Memory.write]
    split
    · next hlt =>
      split
      · next hv =>
        split
        · next hb =>
          subst hb
          rw [hv]
          apply Memory.read_of_lt
          intro c hc
          rcases List.mem_cons.mp hc with rfl | hc
          · exact hlt
          · exact lt_trans hlt (hp.1 c hc)
        · rfl
      · rw [Memory.read_cons]; simp only [eq_comm]
    · split
      · next heq =>
        subst heq
        split
        · next hv =>
          by_cases hb : b = a
          · subst hb
            rw [if_pos rfl, hv]
            exact Memory.read_of_lt t b hp.1
          · rw [if_neg hb, Memory.read_cons, if_neg (by omega)]
        · rw [Memory.read_cons, Memory.read_cons]
          by_cases hb : b = a
          · simp [hb]
          · rw [if_neg (by omega), if_neg hb, if_neg (by omega)]
      · next hne =>
        rw [Memory.read_cons, Memory.read_cons, ht]
        by_cases hb : b = a
        · subst hb
          rw [if_neg (by omega), if_pos rfl, if_pos rfl]
        · simp only [if_neg hb]

/-! Devices -/

@[simp] theorem State.device_setDevice_self (s : State) (d : BitVec 5) (q : List Word) :
    (s.setDevice d q).device d = q := by
  simp [State.device, State.setDevice]

theorem State.device_setDevice_ne (s : State) {d e : BitVec 5} (h : e ≠ d) (q : List Word) :
    (s.setDevice d q).device e = s.device e := by
  have hne : d.toNat ≠ e.toNat := fun he => h (BitVec.eq_of_toNat_eq he.symm)
  simp [State.device, State.setDevice, Vector.getElem_set_ne, hne]

end Sys2Proof.Machine
end

