-- ==== Sys2Proof/Laws/Cache.lean ====
section
/-! SUPPORT. The cache changes no value that is read, and stays coherent, without duplicate tags and within
16 lines (`20_memory.md` R66 to R70). -/

namespace Sys2Proof.Machine

theorem addr_split (a : Addr) : a.toNat = 4 * (tagOf a).toNat + offsetOf a := by
  simp only [tagOf, offsetOf, BitVec.extractLsb'_toNat, Nat.shiftRight_eq_div_pow]
  have := a.isLt
  omega

theorem offsetOf_lt (a : Addr) : offsetOf a < 4 := Nat.mod_lt _ (by decide)

/-- A coherent line's word is memory's word. -/
theorem line_word {m : Memory} {l : CacheLine}
    (h : l.w0 = m.read (4 * l.tag.toNat) ∧ l.w1 = m.read (4 * l.tag.toNat + 1)
      ∧ l.w2 = m.read (4 * l.tag.toNat + 2) ∧ l.w3 = m.read (4 * l.tag.toNat + 3))
    {k : Nat} (hk : k < 4) : l.word k = m.read (4 * l.tag.toNat + k) := by
  obtain ⟨h0, h1, h2, h3⟩ := h
  rcases k with _ | _ | _ | _ | k
  · exact h0
  · exact h1
  · exact h2
  · exact h3
  · omega

theorem cacheFind_some {cache : List CacheLine} {t : BitVec 10} {l : CacheLine}
    (h : cacheFind cache t = some l) : l ∈ cache ∧ l.tag = t :=
  ⟨List.mem_of_find?_eq_some h, by simpa using List.find?_some h⟩

theorem cacheFind_none {cache : List CacheLine} {t : BitVec 10} (h : cacheFind cache t = none) :
    ∀ l ∈ cache, l.tag ≠ t := by
  simpa [cacheFind] using h

/-- CacheRead returns `M[a]` (`20_memory.md` R70). -/
theorem State.cachedWord_eq {s : State} (h : s.Coherent) (a : Addr) : s.cachedWord a = s.mem.read a.toNat := by
  unfold State.cachedWord
  split
  · next l hl =>
    obtain ⟨hm, ht⟩ := cacheFind_some hl
    rw [line_word (h l hm) (offsetOf_lt a), ht, ← addr_split]
  · rfl

theorem cacheAfterRead_sub {s : State} {a : Addr} {l : CacheLine} (h : l ∈ s.cacheAfterRead a) :
    l ∈ s.cache ∨ l = lineOf s.mem a := by
  unfold State.cacheAfterRead at h
  split at h
  · exact .inl h
  · simp only [cacheInsert, List.mem_append, List.mem_singleton] at h
    rcases h with h | h
    · split at h
      · exact .inl (List.mem_of_mem_drop h)
      · exact .inl h
    · exact .inr h

/-- A read keeps coherence: a fill copies memory (`20_memory.md` R70). -/
theorem State.coherent_afterLoad {s : State} (h : s.Coherent) (a : Addr) : (s.afterLoad a).Coherent := by
  intro l hl
  rcases cacheAfterRead_sub hl with hl | rfl
  · exact h l hl
  · exact ⟨rfl, rfl, rfl, rfl⟩

@[simp] theorem CacheLine.setWord_tag (l : CacheLine) (k : Nat) (v : Word) : (l.setWord k v).tag = l.tag := by
  unfold CacheLine.setWord
  split <;> rfl

/-- A write keeps coherence: memory and the line are updated together (`20_memory.md` R70). -/
theorem coherent_write {s : State} (hw : s.mem.wf) (h : s.Coherent) (a : Addr) (v : Word) :
    ∀ l ∈ cacheUpdate s.cache a v,
      l.w0 = (s.mem.write a.toNat v).read (4 * l.tag.toNat)
        ∧ l.w1 = (s.mem.write a.toNat v).read (4 * l.tag.toNat + 1)
        ∧ l.w2 = (s.mem.write a.toNat v).read (4 * l.tag.toNat + 2)
        ∧ l.w3 = (s.mem.write a.toNat v).read (4 * l.tag.toNat + 3) := by
  intro l hl
  obtain ⟨l', hl', rfl⟩ := List.mem_map.mp hl
  obtain ⟨h0, h1, h2, h3⟩ := h l' hl'
  have ha := addr_split a
  have hlt := offsetOf_lt a
  simp only [Memory.read_write hw]
  split
  · next ht =>
    rw [CacheLine.setWord_tag, ht]
    rw [ht] at h0 h1 h2 h3
    generalize offsetOf a = k at ha hlt ⊢
    rw [ha]
    rcases k with _ | _ | _ | _ | k
    · simp [CacheLine.setWord, *]
    · simp [CacheLine.setWord, *]
    · simp [CacheLine.setWord, *]
    · simp [CacheLine.setWord, *]
    · omega
  · next ht =>
    have hne : l'.tag.toNat ≠ (tagOf a).toNat := fun he => ht (BitVec.eq_of_toNat_eq he)
    refine ⟨?_, ?_, ?_, ?_⟩
    · rw [if_neg (by omega)]; exact h0
    · rw [if_neg (by omega)]; exact h1
    · rw [if_neg (by omega)]; exact h2
    · rw [if_neg (by omega)]; exact h3

theorem State.coherent_storeWord {s : State} (hw : s.mem.wf) (h : s.Coherent) (a : Addr) (v : Word) :
    (s.storeWord a v).Coherent :=
  coherent_write hw h a v

/-- A read keeps the cache's shape. -/
theorem State.cacheShape_afterLoad {s : State} (h : s.CacheShape) (a : Addr) : (s.afterLoad a).CacheShape := by
  obtain ⟨hl, hp⟩ := h
  show (s.cacheAfterRead a).length ≤ 16 ∧ (s.cacheAfterRead a).Pairwise _
  unfold State.cacheAfterRead
  split
  · exact ⟨hl, hp⟩
  · next hn =>
    have hn := cacheFind_none hn
    unfold cacheInsert
    split
    · refine ⟨by simp; omega, List.pairwise_append.mpr ⟨hp.sublist (List.drop_sublist 1 _), by simp, ?_⟩⟩
      intro l hl l' hl'
      rw [List.mem_singleton.mp hl']
      exact hn l (List.mem_of_mem_drop hl)
    · refine ⟨by simp; omega, List.pairwise_append.mpr ⟨hp, by simp, ?_⟩⟩
      intro l hl l' hl'
      rw [List.mem_singleton.mp hl']
      exact hn l hl

/-- A write keeps the cache's shape: it allocates no line (`20_memory.md` R69). -/
theorem State.cacheShape_storeWord {s : State} (h : s.CacheShape) (a : Addr) (v : Word) :
    (s.storeWord a v).CacheShape := by
  obtain ⟨hl, hp⟩ := h
  show (cacheUpdate s.cache a v).length ≤ 16 ∧ (cacheUpdate s.cache a v).Pairwise _
  refine ⟨by simpa [cacheUpdate] using hl, ?_⟩
  unfold cacheUpdate
  rw [List.pairwise_map]
  refine hp.imp ?_
  intro l l' hne
  split <;> split <;> simpa using hne

end Sys2Proof.Machine
end

