-- ==== Sys2Proof/Laws/Operands.lean ====
section
/-! SUPPORT. What the memory accesses and the operand forms do, said once each. -/

namespace Sys2Proof.Machine

theorem SameButAccess.refl (s : State) : s.SameButAccess s := rfl

theorem SameButAccess.trans {s t u : State} (h : s.SameButAccess t) (h' : t.SameButAccess u) : s.SameButAccess u := by
  unfold State.SameButAccess at *
  rw [h', h]

theorem SameButAccess.afterLoad (s : State) (a : Addr) : s.SameButAccess (s.afterLoad a) := rfl

theorem SameButAccess.setControl (s : State) (k : Control) : s.SameButAccess (s.setControl k) := rfl

/-- A read whose check passes answers memory's word (`20_memory.md` R63, R70). -/
theorem State.memRead_ok {s : State} (h : s.Coherent) {v : Word} (hv : s.faultAt v = none) :
    s.memRead v = .ok (s.wordAt v, s.afterLoad (addrOf v)) := by
  simp only [State.memRead, State.readAt, State.faultAt] at *
  rw [hv]
  simp only [State.cachedWord_eq h]

/-- A read whose check fails raises, and changes nothing (`20_memory.md` R65). -/
theorem State.memRead_fault {s : State} {v : Word} {k : FaultCode} (hv : s.faultAt v = some k) :
    s.memRead v = .error k := by
  simp only [State.memRead, State.readAt, State.faultAt] at *
  rw [hv]

theorem State.memWrite_ok {s : State} {v w : Word} (hv : s.faultAt v = none) :
    s.memWrite v w = .ok (s.storeWord (addrOf v) w) := by
  simp only [State.memWrite, State.writeAt, State.faultAt] at *
  rw [hv]

theorem State.memWrite_fault {s : State} {v w : Word} {k : FaultCode} (hv : s.faultAt v = some k) :
    s.memWrite v w = .error k := by
  simp only [State.memWrite, State.writeAt, State.faultAt] at *
  rw [hv]

/-- The effective address of a form whose indirect read, if any, passes its check. -/
theorem formEa_ok {s : State} (h : s.Coherent) {indexed : Bool} {x : IndexId} {ind : Bool} {addr : BitVec 5}
    (hf : s.eaFault indexed x ind addr = none) (c : Record) :
    ∃ u, formEa indexed x ind addr c s = .done c u ∧ s.SameButAccess u ∧ u.Coherent
      ∧ u.iar = s.effectiveAddress indexed x ind addr ∧ u.control = s.control := by
  unfold formEa
  cases ind with
  | false => exact ⟨_, rfl, rfl, h, rfl, rfl⟩
  | true =>
    simp only [State.eaFault, if_true] at hf
    simp only [if_true, State.memRead_ok h hf]
    exact ⟨_, rfl, rfl, State.coherent_afterLoad h _, rfl, rfl⟩

/-- The effective address of a form whose indirect read fails its check. -/
theorem formEa_fault {s : State} {indexed : Bool} {x : IndexId} {ind : Bool} {addr : BitVec 5} {k : FaultCode}
    (hf : s.eaFault indexed x ind addr = some k) (c : Record) :
    formEa indexed x ind addr c s = .raise k s := by
  unfold formEa
  cases ind with
  | false => simp at hf
  | true =>
    simp only [State.eaFault, if_true] at hf
    simp only [if_true, State.memRead_fault hf]

/-- The memory operand of a form all of whose reads pass. -/
theorem fetchOperand_ok {s : State} (h : s.Coherent) {indexed : Bool} {x : IndexId} {ind : Bool}
    {addr : BitVec 5} (hf : s.operandFault indexed x ind addr = none) (c : Record) :
    ∃ u, fetchOperand indexed x ind addr c s
        = .done { c with opnd := s.wordAt (s.effectiveAddress indexed x ind addr) } u
      ∧ s.SameButAccess u ∧ u.Coherent ∧ u.iar = s.effectiveAddress indexed x ind addr
      ∧ u.control = s.control := by
  cases he : s.eaFault indexed x ind addr with
  | some k => simp only [State.operandFault, he] at hf; cases hf
  | none =>
    simp only [State.operandFault, he] at hf
    obtain ⟨u, hu, hs, hc, hi, hk⟩ := formEa_ok h he c
    have hfu : u.faultAt u.iar = none := by rw [hi, hs]; exact hf
    refine ⟨u.afterLoad (addrOf u.iar), ?_, SameButAccess.trans hs rfl, State.coherent_afterLoad hc _, hi, hk⟩
    simp only [fetchOperand, hu, PhaseResult.andThen, readOperand, State.memRead_ok hc hfu]
    rw [hi, State.wordAt, State.wordAt, show u.mem = s.mem by rw [hs]]

/-- The memory operand of a form one of whose reads fails. -/
theorem fetchOperand_fault {s : State} (h : s.Coherent) {indexed : Bool} {x : IndexId} {ind : Bool}
    {addr : BitVec 5} {k : FaultCode} (hf : s.operandFault indexed x ind addr = some k) (c : Record) :
    ∃ u, fetchOperand indexed x ind addr c s = .raise k u ∧ s.SameButAccess u ∧ u.Coherent
      ∧ u.control = s.control := by
  cases he : s.eaFault indexed x ind addr with
  | some k' =>
    simp only [State.operandFault, he, Option.some.injEq] at hf
    subst hf
    exact ⟨s, by simp only [fetchOperand, formEa_fault he, PhaseResult.andThen], rfl, h, rfl⟩
  | none =>
    simp only [State.operandFault, he] at hf
    obtain ⟨u, hu, hs, hc, hi, hk⟩ := formEa_ok h he c
    have hfu : u.faultAt u.iar = some k := by rw [hi, hs]; exact hf
    exact ⟨u, by simp only [fetchOperand, hu, PhaseResult.andThen, readOperand, State.memRead_fault hfu], hs, hc, hk⟩

theorem storeOperand_ok {s : State} (v : Word) (c : Record) (h : s.faultAt s.iar = none) :
    storeOperand v c s = .done c (s.storeWord (addrOf s.iar) v) := by
  simp only [storeOperand, State.memWrite_ok h]

theorem storeOperand_fault {s : State} {k : FaultCode} (v : Word) (c : Record) (h : s.faultAt s.iar = some k) :
    storeOperand v c s = .raise k s := by
  simp only [storeOperand, State.memWrite_fault h]

end Sys2Proof.Machine
end

