-- ==== Sys2Proof/Laws/PerInstr.lean ====
section
/-! SUPPORT. Statements made for each instruction: the family OpcodeField. -/

namespace Sys2Proof.Laws.OpcodeField

/-- The opcode field of an instruction's word is its mnemonic's opcode number, whatever its operands
(`30_encoding.md` R100, R112). -/
def Statement (i : Instr) : Prop := opcodeField (encode i) = i.mnemonic.opcode

/-! One lemma for each format: the bits above the format's fields are the opcode -/

theorem opcodeField_rm (op : BitVec 6) (r x : BitVec 2) (ind : Bool) (addr : BitVec 5) :
    opcodeField (encodeRM op r x ind addr) = op := by
  show BitVec.extractLsb' 10 6 (op ++ r ++ x ++ BitVec.ofBool ind ++ addr : BitVec (6 + 2 + 2 + 1 + 5)) = op
  ext j hj
  simp only [BitVec.getElem_extractLsb', BitVec.getLsbD_append, show ¬10 + j < 5 by omega, show ¬10 + j - 5 < 1 by omega, show ¬10 + j - 5 - 1 < 2 by omega, show ¬10 + j - 5 - 1 - 2 < 2 by omega, if_false]
  rw [show 10 + j - 5 - 1 - 2 - 2 = j by omega, BitVec.getLsbD_eq_getElem]

theorem opcodeField_rr (op : BitVec 6) (rx ry : BitVec 2) :
    opcodeField (encodeRR op rx ry) = op := by
  show BitVec.extractLsb' 10 6 (op ++ rx ++ ry ++ (0 : BitVec 6) : BitVec (6 + 2 + 2 + 6)) = op
  ext j hj
  simp only [BitVec.getElem_extractLsb', BitVec.getLsbD_append, show ¬10 + j < 6 by omega, show ¬10 + j - 6 < 2 by omega, show ¬10 + j - 6 - 2 < 2 by omega, if_false]
  rw [show 10 + j - 6 - 2 - 2 = j by omega, BitVec.getLsbD_eq_getElem]

theorem opcodeField_sr (op : BitVec 6) (r : BitVec 2) (al lr : Bool) (count : BitVec 4) :
    opcodeField (encodeSR op r al lr count) = op := by
  show BitVec.extractLsb' 10 6 (op ++ r ++ BitVec.ofBool al ++ BitVec.ofBool lr ++ (0 : BitVec 2) ++ count : BitVec (6 + 2 + 1 + 1 + 2 + 4)) = op
  ext j hj
  simp only [BitVec.getElem_extractLsb', BitVec.getLsbD_append, show ¬10 + j < 4 by omega, show ¬10 + j - 4 < 2 by omega, show ¬10 + j - 4 - 2 < 1 by omega, show ¬10 + j - 4 - 2 - 1 < 1 by omega, show ¬10 + j - 4 - 2 - 1 - 1 < 2 by omega, if_false]
  rw [show 10 + j - 4 - 2 - 1 - 1 - 2 = j by omega, BitVec.getLsbD_eq_getElem]

theorem opcodeField_io (op : BitVec 6) (r : BitVec 2) (dev : BitVec 5) :
    opcodeField (encodeIO op r dev) = op := by
  show BitVec.extractLsb' 10 6 (op ++ r ++ (0 : BitVec 3) ++ dev : BitVec (6 + 2 + 3 + 5)) = op
  ext j hj
  simp only [BitVec.getElem_extractLsb', BitVec.getLsbD_append, show ¬10 + j < 5 by omega, show ¬10 + j - 5 < 3 by omega, show ¬10 + j - 5 - 3 < 2 by omega, if_false]
  rw [show 10 + j - 5 - 3 - 2 = j by omega, BitVec.getLsbD_eq_getElem]

theorem opcodeField_trap (op : BitVec 6) (hi : BitVec 6) (code : BitVec 4) :
    opcodeField (encodeTrap op hi code) = op := by
  show BitVec.extractLsb' 10 6 (op ++ hi ++ code : BitVec (6 + 6 + 4)) = op
  ext j hj
  simp only [BitVec.getElem_extractLsb', BitVec.getLsbD_append, show ¬10 + j < 4 by omega, show ¬10 + j - 4 < 6 by omega, if_false]
  rw [show 10 + j - 4 - 6 = j by omega, BitVec.getLsbD_eq_getElem]

theorem opcodeField_hlt (op : BitVec 6) :
    opcodeField (encodeHlt op) = op := by
  show BitVec.extractLsb' 10 6 (op ++ (0 : BitVec 10) : BitVec (6 + 10)) = op
  ext j hj
  simp only [BitVec.getElem_extractLsb', BitVec.getLsbD_append, show ¬10 + j < 10 by omega, if_false]
  rw [show 10 + j - 10 = j by omega, BitVec.getLsbD_eq_getElem]

/-! One lemma for each instruction -/

theorem hlt : Statement (.hlt) :=
  opcodeField_hlt _

theorem ldr (r : RegId) (x : IndexId) (ind : Bool) (addr : BitVec 5) : Statement (.ldr r x ind addr) :=
  opcodeField_rm _ _ _ _ _

theorem str (r : RegId) (x : IndexId) (ind : Bool) (addr : BitVec 5) : Statement (.str r x ind addr) :=
  opcodeField_rm _ _ _ _ _

theorem lda (r : RegId) (x : IndexId) (ind : Bool) (addr : BitVec 5) : Statement (.lda r x ind addr) :=
  opcodeField_rm _ _ _ _ _

theorem amr (r : RegId) (x : IndexId) (ind : Bool) (addr : BitVec 5) : Statement (.amr r x ind addr) :=
  opcodeField_rm _ _ _ _ _

theorem smr (r : RegId) (x : IndexId) (ind : Bool) (addr : BitVec 5) : Statement (.smr r x ind addr) :=
  opcodeField_rm _ _ _ _ _

theorem air (r : RegId) (imm : BitVec 5) : Statement (.air r imm) :=
  opcodeField_rm _ _ _ _ _

theorem sir (r : RegId) (imm : BitVec 5) : Statement (.sir r imm) :=
  opcodeField_rm _ _ _ _ _

theorem jz (r : RegId) (x : IndexId) (ind : Bool) (addr : BitVec 5) : Statement (.jz r x ind addr) :=
  opcodeField_rm _ _ _ _ _

theorem jne (r : RegId) (x : IndexId) (ind : Bool) (addr : BitVec 5) : Statement (.jne r x ind addr) :=
  opcodeField_rm _ _ _ _ _

theorem jcc (sel : CcSelector) (x : IndexId) (ind : Bool) (addr : BitVec 5) : Statement (.jcc sel x ind addr) :=
  opcodeField_rm _ _ _ _ _

theorem jma (x : IndexId) (ind : Bool) (addr : BitVec 5) : Statement (.jma x ind addr) :=
  opcodeField_rm _ _ _ _ _

theorem jsr (x : IndexId) (ind : Bool) (addr : BitVec 5) : Statement (.jsr x ind addr) :=
  opcodeField_rm _ _ _ _ _

theorem rfs (imm : BitVec 5) : Statement (.rfs imm) :=
  opcodeField_rm _ _ _ _ _

theorem sob (r : RegId) (x : IndexId) (ind : Bool) (addr : BitVec 5) : Statement (.sob r x ind addr) :=
  opcodeField_rm _ _ _ _ _

theorem jge (r : RegId) (x : IndexId) (ind : Bool) (addr : BitVec 5) : Statement (.jge r x ind addr) :=
  opcodeField_rm _ _ _ _ _

theorem mlt (rx ry : RegId) : Statement (.mlt rx ry) :=
  opcodeField_rr _ _ _

theorem dvd (rx ry : RegId) : Statement (.dvd rx ry) :=
  opcodeField_rr _ _ _

theorem trr (rx ry : RegId) : Statement (.trr rx ry) :=
  opcodeField_rr _ _ _

theorem and (rx ry : RegId) : Statement (.and rx ry) :=
  opcodeField_rr _ _ _

theorem orr (rx ry : RegId) : Statement (.orr rx ry) :=
  opcodeField_rr _ _ _

theorem not (rx : RegId) : Statement (.not rx) :=
  opcodeField_rr _ _ _

theorem trap (hi : BitVec 6) (code : BitVec 4) : Statement (.trap hi code) :=
  opcodeField_trap _ _ _

theorem src (r : RegId) (al lr : Bool) (count : BitVec 4) : Statement (.src r al lr count) :=
  opcodeField_sr _ _ _ _ _

theorem rrc (r : RegId) (al lr : Bool) (count : BitVec 4) : Statement (.rrc r al lr count) :=
  opcodeField_sr _ _ _ _ _

theorem fadd (fr : FloatId) (x : IndexId) (ind : Bool) (addr : BitVec 5) : Statement (.fadd fr x ind addr) :=
  opcodeField_rm _ _ _ _ _

theorem fsub (fr : FloatId) (x : IndexId) (ind : Bool) (addr : BitVec 5) : Statement (.fsub fr x ind addr) :=
  opcodeField_rm _ _ _ _ _

theorem vadd (fr : FloatId) (x : IndexId) (ind : Bool) (addr : BitVec 5) : Statement (.vadd fr x ind addr) :=
  opcodeField_rm _ _ _ _ _

theorem vsub (fr : FloatId) (x : IndexId) (ind : Bool) (addr : BitVec 5) : Statement (.vsub fr x ind addr) :=
  opcodeField_rm _ _ _ _ _

theorem cnvrt (r : RegId) (x : IndexId) (ind : Bool) (addr : BitVec 5) : Statement (.cnvrt r x ind addr) :=
  opcodeField_rm _ _ _ _ _

theorem ldx (x : IndexId) (ind : Bool) (addr : BitVec 5) : Statement (.ldx x ind addr) :=
  opcodeField_rm _ _ _ _ _

theorem stx (x : IndexId) (ind : Bool) (addr : BitVec 5) : Statement (.stx x ind addr) :=
  opcodeField_rm _ _ _ _ _

theorem ldfr (fr : FloatId) (x : IndexId) (ind : Bool) (addr : BitVec 5) : Statement (.ldfr fr x ind addr) :=
  opcodeField_rm _ _ _ _ _

theorem stfr (fr : FloatId) (x : IndexId) (ind : Bool) (addr : BitVec 5) : Statement (.stfr fr x ind addr) :=
  opcodeField_rm _ _ _ _ _

theorem inp (r : RegId) (dev : BitVec 5) : Statement (.inp r dev) :=
  opcodeField_io _ _ _

theorem out (r : RegId) (dev : BitVec 5) : Statement (.out r dev) :=
  opcodeField_io _ _ _

theorem chk (r : RegId) (dev : BitVec 5) : Statement (.chk r dev) :=
  opcodeField_io _ _ _

end Sys2Proof.Laws.OpcodeField
end

