-- ==== Sys2Proof/Laws/Phases.lean ====
section
/-! SUPPORT. How the phases of an instruction run on, and that `exec` is `perform` of the instruction's
phases. -/

namespace Sys2Proof.Machine

/-- Every arm of `exec` is its instruction's phases performed. -/
theorem exec_eq_perform (i : Instr) (s : State) : exec i s = .next (perform (bodyOf i) i s) := by
  cases i <;> rfl

/-- The state an instruction's phases start from. -/
abbrev State.atOperandFetch (s : State) (i : Instr) : State := s.setControl (.operandFetch (Record.new i))

theorem perform_eq {b : Body} (h : b.refusal = none) (i : Instr) (s : State) :
    perform b i s = runOperandFetch b (Record.new i) (s.atOperandFetch i) := by
  simp [perform, decodeInto, h]

theorem perform_refused {b : Body} {r : RefuseReason} (h : b.refusal = some r) (i : Instr) (s : State) :
    perform b i s = s.refuse r := by
  simp [perform, decodeInto, h]

theorem runOperandFetch_done {b : Body} {c c' : Record} {s s' : State} (h : b.of c s = .done c' s') :
    runOperandFetch b c s = runExecute b c' (s'.setControl (.execute c')) := by
  simp only [runOperandFetch, h]

theorem runOperandFetch_raise {b : Body} {c : Record} {s s' : State} {k : FaultCode}
    (h : b.of c s = .raise k s') : runOperandFetch b c s = faultDispatch k s' := by
  simp only [runOperandFetch, h, settle]

/-- An unfaulted instruction whose Execute completes. -/
theorem runExecute_done {b : Body} {c c' : Record} {s s' : State} (hc : c.faulted = false)
    (h : b.ex c s = .done c' s') : runExecute b c s = runStore b c' (s'.setControl (.resultStore c')) := by
  simp [runExecute, executePhase, hc, h]

/-- A faulted instruction ends without an effect of Execute or Result Store (`40_control_unit.md` R147). -/
theorem runExecute_faulted {b : Body} {c : Record} (s : State) (hc : c.faulted = true) :
    runExecute b c s = (s.setControl (.resultStore c)).setControl .fetch := by
  simp [runExecute, executePhase, runStore, storePhase, hc, settle]

theorem runStore_done {b : Body} {c c' : Record} {s s' : State} (hc : c.faulted = false)
    (h : b.rs c s = .done c' s') : runStore b c s = s'.setControl .fetch := by
  simp [runStore, storePhase, hc, h, settle]

theorem runStore_raise {b : Body} {c : Record} {s s' : State} {k : FaultCode} (hc : c.faulted = false)
    (h : b.rs c s = .raise k s') : runStore b c s = faultDispatch k s' := by
  simp [runStore, storePhase, hc, h, settle]

/-- An instruction that reads a memory operand, all of whose reads pass: what is left is its Execute. -/
theorem perform_operand_ok {b : Body} {i : Instr} {s : State} {indexed : Bool} {x : IndexId} {ind : Bool}
    {addr : BitVec 5} (hb : b.refusal = none)
    (hof : b.of (Record.new i) (s.atOperandFetch i)
      = fetchOperand indexed x ind addr (Record.new i) (s.atOperandFetch i))
    (h : s.Coherent) (hf : s.operandFault indexed x ind addr = none) :
    ∃ u, s.SameButAccess u ∧ u.Coherent ∧ u.iar = s.effectiveAddress indexed x ind addr
      ∧ perform b i s
        = runExecute b { Record.new i with opnd := s.wordAt (s.effectiveAddress indexed x ind addr) } u := by
  obtain ⟨u, hu, hs, hc, hi, -⟩ := fetchOperand_ok (s := s.atOperandFetch i) h hf (Record.new i)
  exact ⟨_, SameButAccess.trans hs (SameButAccess.setControl u (.execute _)), hc, hi,
    (perform_eq hb i s).trans (runOperandFetch_done (hof.trans hu))⟩

/-- An instruction that reads a memory operand, one of whose reads fails: the fault is dispatched. -/
theorem perform_operand_fault {b : Body} {i : Instr} {s : State} {indexed : Bool} {x : IndexId} {ind : Bool}
    {addr : BitVec 5} {k : FaultCode} (hb : b.refusal = none)
    (hof : b.of (Record.new i) (s.atOperandFetch i)
      = fetchOperand indexed x ind addr (Record.new i) (s.atOperandFetch i))
    (h : s.Coherent) (hf : s.operandFault indexed x ind addr = some k) :
    ∃ u, s.SameButAccess u ∧ u.Coherent ∧ perform b i s = faultDispatch k u := by
  obtain ⟨u, hu, hs, hc, -⟩ := fetchOperand_fault (s := s.atOperandFetch i) h hf (Record.new i)
  exact ⟨u, hs, hc, by rw [perform_eq hb, runOperandFetch_raise (hof.trans hu)]⟩

/-- An instruction that forms an effective address and no more in Operand Fetch. -/
theorem perform_ea_ok {b : Body} {i : Instr} {s : State} {indexed : Bool} {x : IndexId} {ind : Bool}
    {addr : BitVec 5} (hb : b.refusal = none)
    (hof : b.of (Record.new i) (s.atOperandFetch i)
      = formEa indexed x ind addr (Record.new i) (s.atOperandFetch i))
    (h : s.Coherent) (hf : s.eaFault indexed x ind addr = none) :
    ∃ u, s.SameButAccess u ∧ u.Coherent ∧ u.iar = s.effectiveAddress indexed x ind addr
      ∧ perform b i s = runExecute b (Record.new i) u := by
  obtain ⟨u, hu, hs, hc, hi, -⟩ := formEa_ok (s := s.atOperandFetch i) h hf (Record.new i)
  exact ⟨_, SameButAccess.trans hs (SameButAccess.setControl u (.execute _)), hc, hi,
    (perform_eq hb i s).trans (runOperandFetch_done (hof.trans hu))⟩

/-- An instruction that forms an effective address, whose indirect read fails. -/
theorem perform_ea_fault {b : Body} {i : Instr} {s : State} {indexed : Bool} {x : IndexId} {ind : Bool}
    {addr : BitVec 5} {k : FaultCode} (hb : b.refusal = none)
    (hof : b.of (Record.new i) (s.atOperandFetch i)
      = formEa indexed x ind addr (Record.new i) (s.atOperandFetch i))
    (h : s.Coherent) (hf : s.eaFault indexed x ind addr = some k) :
    ∃ u, s.SameButAccess u ∧ u.Coherent ∧ perform b i s = faultDispatch k u :=
  ⟨s.atOperandFetch i, SameButAccess.setControl s _, h, by
    rw [perform_eq hb, runOperandFetch_raise (hof.trans (formEa_fault (s := s.atOperandFetch i) hf _))]⟩

/-- An instruction with nothing to do in Operand Fetch. -/
theorem perform_no_fetch {b : Body} {i : Instr} (s : State) (hb : b.refusal = none)
    (hof : b.of (Record.new i) (s.atOperandFetch i) = .done (Record.new i) (s.atOperandFetch i)) :
    perform b i s = runExecute b (Record.new i) (s.setControl (.execute (Record.new i))) := by
  rw [perform_eq hb, runOperandFetch_done hof]
  rfl

/-- An unfaulted instruction with nothing to do in Operand Fetch, whose Execute and Result Store complete. -/
theorem perform_register {b : Body} {i : Instr} {s s₁ s₂ : State} {c₁ c₂ : Record} (hb : b.refusal = none)
    (hof : b.of (Record.new i) (s.atOperandFetch i) = .done (Record.new i) (s.atOperandFetch i))
    (hw : i.wellFormed = true)
    (hex : b.ex (Record.new i) (s.setControl (.execute (Record.new i))) = .done c₁ s₁) (hc : c₁.faulted = false)
    (hrs : b.rs c₁ (s₁.setControl (.resultStore c₁)) = .done c₂ s₂) :
    perform b i s = s₂.setControl .fetch := by
  rw [perform_no_fetch s hb hof, runExecute_done (by simp [Record.new, hw]) hex, runStore_done hc hrs]

@[simp] theorem Record.new_faulted (i : Instr) : (Record.new i).faulted = !i.wellFormed := rfl

end Sys2Proof.Machine
end

