-- ==== Sys2Proof/Laws/Preservation.lean ====
section
/-! SUPPORT. What a step can do to a state, said once: a property kept by the primitive updates is kept by every
phase, every instruction, every tick and every step; and an instruction ends where its own updates lead or in a
fault dispatched from there. -/

namespace Sys2Proof.Machine

/-- The state a phase result carries. -/
def PhaseResult.state : PhaseResult → State
  | .done _ s => s
  | .halted _ s => s
  | .restart s => s
  | .raise _ s => s
  | .refuse _ s => s

/-- The property survives the control unit: a new phase, a dispatched fault, a refusal. -/
structure ControlClosed (P : State → Prop) : Prop where
  setControl : ∀ s k, P s → P (s.setControl k)
  dispatch : ∀ k s, P s → P (faultDispatch k s)
  refuse : ∀ s r, P s → P (s.refuse r)

/-- `P` holds while an instruction runs and leads to `Q` where it ends: at its end, in a dispatched fault, or
refused. -/
structure ControlLeads (P Q : State → Prop) : Prop where
  ends : ∀ s, P s → Q s
  setControl : ∀ s k, P s → P (s.setControl k)
  dispatch : ∀ k s, P s → Q (faultDispatch k s)
  refuse : ∀ s r, P s → Q (s.refuse r)

theorem ControlClosed.leads {P : State → Prop} (hP : ControlClosed P) : ControlLeads P P :=
  ⟨fun _ h => h, hP.setControl, hP.dispatch, hP.refuse⟩

/-- The property survives every phase of a body. -/
structure BodyKeeps (P : State → Prop) (b : Body) : Prop where
  of : ∀ c s, P s → P (b.of c s).state
  ex : ∀ c s, P s → P (b.ex c s).state
  rs : ∀ c s, P s → P (b.rs c s).state

section Control

variable {P Q : State → Prop}

theorem settle_leads (hP : ControlLeads P Q) (next : Record → Control) {r : PhaseResult} (h : P r.state) :
    Q (settle next r) := by
  cases r with
  | done c s => exact hP.ends _ (hP.setControl s _ h)
  | halted c s => exact hP.ends _ (hP.setControl s _ h)
  | restart s => exact hP.ends _ (hP.setControl s _ h)
  | raise k s => exact hP.dispatch k s h
  | refuse r s => exact hP.refuse s r h

theorem executePhase_keeps {b : Body} (hb : BodyKeeps P b) (c : Record) {s : State} (h : P s) :
    P (executePhase b c s).state := by
  unfold executePhase
  split
  · exact h
  · exact hb.ex c s h

theorem storePhase_keeps {b : Body} (hb : BodyKeeps P b) (c : Record) {s : State} (h : P s) :
    P (storePhase b c s).state := by
  unfold storePhase
  split
  · exact h
  · exact hb.rs c s h

theorem runStore_leads (hP : ControlLeads P Q) {b : Body} (hb : BodyKeeps P b) (c : Record) {s : State}
    (h : P s) : Q (runStore b c s) :=
  settle_leads hP _ (storePhase_keeps hb c h)

theorem runExecute_leads (hP : ControlLeads P Q) {b : Body} (hb : BodyKeeps P b) (c : Record) {s : State}
    (h : P s) : Q (runExecute b c s) := by
  have hx := executePhase_keeps hb c h
  unfold runExecute
  split
  · next c' s' he =>
    rw [he] at hx
    exact runStore_leads hP hb c' (hP.setControl s' _ hx)
  · exact settle_leads hP _ hx

theorem runOperandFetch_leads (hP : ControlLeads P Q) {b : Body} (hb : BodyKeeps P b) (c : Record) {s : State}
    (h : P s) : Q (runOperandFetch b c s) := by
  have hx := hb.of c s h
  unfold runOperandFetch
  split
  · next c' s' he =>
    rw [he] at hx
    exact runExecute_leads hP hb c' (hP.setControl s' _ hx)
  · exact settle_leads hP _ hx

theorem decodeInto_leads (hP : ControlLeads P Q) (b : Body) (i : Instr) {s : State} (h : P s) :
    Q (decodeInto b i s) := by
  unfold decodeInto
  split
  · exact hP.refuse s _ h
  · exact hP.ends _ (hP.setControl s _ h)

theorem perform_leads (hP : ControlLeads P Q) {b : Body} (hb : BodyKeeps P b) (i : Instr) {s : State}
    (h : P s) : Q (perform b i s) := by
  unfold perform
  split
  · exact decodeInto_leads hP b i h
  · next hr =>
    have hd : decodeInto b i s = s.setControl (.operandFetch (Record.new i)) := by
      unfold decodeInto
      rw [hr]
    rw [hd]
    exact runOperandFetch_leads hP hb _ (hP.setControl s _ h)

/-- An instruction whose phases keep `P` ends in `Q`. -/
theorem exec_leads (hP : ControlLeads P Q) {i : Instr} (hb : BodyKeeps P (bodyOf i)) {s t : State} (h : P s)
    (he : exec i s = .next t) : Q t := by
  rw [exec_eq_perform] at he
  cases he
  exact perform_leads hP hb i h

/-- The rest of an instruction in flight whose phases keep `P` ends in `Q`. -/
theorem finishInstruction_leads (hP : ControlLeads P Q) {s : State}
    (hb : ∀ c ∈ s.control.record?, BodyKeeps P (bodyOf c.instr)) (h : P s) : Q (finishInstruction s) := by
  unfold finishInstruction
  split
  · exact hP.ends s h
  · exact hP.ends s h
  · next c hk => exact runOperandFetch_leads hP (hb c (by rw [hk]; rfl)) c h
  · next c hk => exact runExecute_leads hP (hb c (by rw [hk]; rfl)) c h
  · next c hk => exact runStore_leads hP (hb c (by rw [hk]; rfl)) c h

end Control

/-- The property survives every update of an instruction's phases but TRAP's entry. -/
structure UpdateClosed (P : State → Prop) : Prop where
  setReg : ∀ s i v, P s → P (s.setReg i v)
  setIndex : ∀ s i v, P s → P (s.setIndex i v)
  setFloat : ∀ s i v, P s → P (s.setFloat i v)
  setPc : ∀ s v, P s → P (s.setPc v)
  setIar : ∀ (s : State) v, P s → P { s with iar := v }
  aluStep : ∀ s l f, P s → P (s.aluStep l f)
  fpuStep : ∀ (s : State) l f, P s → P { s with fpu := l, cc := f }
  drawn : ∀ s n, P s → P (s.drawn n)
  setDevice : ∀ s d q, P s → P (s.setDevice d q)
  wait : ∀ s d, P s → P (s.waitForInput d)
  stop : ∀ s, P s → P s.stopRunning
  load : ∀ s a, P s → P (s.afterLoad a)
  store : ∀ s a v, checkAccess s.cfg.wordCount a s.msr.supervisor = none → P s → P (s.storeWord a v)

/-- The property survives every update of an instruction's phases. -/
structure BodyClosed (P : State → Prop) : Prop extends UpdateClosed P where
  trap : ∀ s v w, checkAccess s.cfg.wordCount 2 true = none → P s →
    P ({ s.storeWord 2 v with msr := { (s.storeWord 2 v).msr with supervisor := true } }.setPc w)

/-- The property survives every primitive update an instruction or a fetch can make. -/
structure StepClosed (P : State → Prop) : Prop extends ControlClosed P, BodyClosed P where
  setMar : ∀ (s : State) a, P s → P { s with mar := a }
  fetched : ∀ s w, P s → P (s.fetched w)

section Step

variable {P : State → Prop}

theorem readAt_keeps (hP : UpdateClosed P) {s s' : State} {priv : Bool} {a : Addr} {v : Word}
    (hr : s.readAt priv a = .ok (v, s')) (h : P s) : P s' := by
  unfold State.readAt at hr
  split at hr
  · cases hr
  · cases hr
    exact hP.load s a h

theorem formEa_keeps (hP : UpdateClosed P) (indexed : Bool) (x : IndexId) (ind : Bool) (addr : BitVec 5)
    (c : Record) {s : State} (h : P s) : P (formEa indexed x ind addr c s).state := by
  unfold formEa
  split
  · split
    · exact h
    · next hr => exact hP.setIar _ _ (readAt_keeps hP hr h)
  · exact hP.setIar _ _ h

theorem readOperand_keeps (hP : UpdateClosed P) (c : Record) {s : State} (h : P s) :
    P (readOperand c s).state := by
  unfold readOperand
  split
  · exact h
  · next hr => exact readAt_keeps hP hr h

theorem fetchOperand_keeps (hP : UpdateClosed P) (indexed : Bool) (x : IndexId) (ind : Bool) (addr : BitVec 5)
    (c : Record) {s : State} (h : P s) : P (fetchOperand indexed x ind addr c s).state := by
  have he := formEa_keeps hP indexed x ind addr c h
  unfold fetchOperand PhaseResult.andThen
  split
  · next hr =>
    rw [hr] at he
    exact readOperand_keeps hP _ he
  · exact he

theorem storeOperand_keeps (hP : UpdateClosed P) (v : Word) (c : Record) {s : State} (h : P s) :
    P (storeOperand v c s).state := by
  unfold storeOperand
  split
  · exact h
  · next hr =>
    unfold State.memWrite State.writeAt at hr
    split at hr
    · cases hr
    · next hc =>
      cases hr
      exact hP.store s _ v hc h

theorem trapEnter_keeps (hP : BodyClosed P) (w : Word) (c : Record) {s : State} (h : P s) :
    P (trapEnter w c s).state := by
  unfold trapEnter
  split
  · exact h
  · next hr =>
    unfold State.memWriteP State.writeAt at hr
    split at hr
    · cases hr
    · next hc =>
      cases hr
      exact hP.trap s _ w hc h

theorem transferIfTaken_keeps (hP : UpdateClosed P) (c : Record) {s : State} (h : P s) :
    P (transferIfTaken c s).state := by
  unfold transferIfTaken
  split
  · exact hP.setPc s _ h
  · exact h

theorem aluDivide_keeps (hP : UpdateClosed P) (a b : Word) {s : State} (h : P s) : P (s.aluDivide a b) := by
  unfold State.aluDivide
  split
  · exact hP.drawn _ _ (hP.aluStep s _ _ h)
  · exact hP.aluStep s _ _ h

theorem floatBody_keeps (hP : UpdateClosed P) (subtract : Bool) (fr : FloatId) (x : IndexId) (ind : Bool)
    (addr : BitVec 5) : BodyKeeps P (floatBody subtract fr x ind addr) where
  of c s h := fetchOperand_keeps hP true x ind addr c h
  ex c s h := by
    simp only [floatBody]
    split
    · exact hP.fpuStep s _ _ h
    · exact h
  rs c s h := by
    simp only [floatBody]
    split
    · exact hP.setFloat s _ _ h
    · exact h

/-- The phases of every instruction but TRAP keep a property the updates outside TRAP's entry keep. -/
theorem bodyOf_keeps_of_ne (hP : UpdateClosed P) (i : Instr) (hi : i.mnemonic ≠ .TRAP) :
    BodyKeeps P (bodyOf i) := by
  cases i with
  | hlt => exact ⟨fun c s h => h, fun c s h => hP.stop s h, fun c s h => h⟩
  | ldr r x ind addr =>
    exact ⟨fun c s h => fetchOperand_keeps hP _ _ _ _ c h, fun c s h => h, fun c s h => hP.setReg s _ _ h⟩
  | str r x ind addr =>
    exact ⟨fun c s h => formEa_keeps hP _ _ _ _ c h, fun c s h => h, fun c s h => storeOperand_keeps hP _ c h⟩
  | lda r x ind addr =>
    exact ⟨fun c s h => formEa_keeps hP _ _ _ _ c h, fun c s h => h, fun c s h => hP.setReg s _ _ h⟩
  | amr r x ind addr =>
    exact ⟨fun c s h => fetchOperand_keeps hP _ _ _ _ c h, fun c s h => hP.aluStep s _ _ h,
      fun c s h => hP.setReg s _ _ h⟩
  | smr r x ind addr =>
    exact ⟨fun c s h => fetchOperand_keeps hP _ _ _ _ c h, fun c s h => hP.aluStep s _ _ h,
      fun c s h => hP.setReg s _ _ h⟩
  | air r imm =>
    refine ⟨fun c s h => h, fun c s h => ?_, fun c s h => ?_⟩
    · simp only [bodyOf, airBody]; split
      · exact h
      · exact hP.aluStep s _ _ h
    · simp only [bodyOf, airBody]; split
      · exact h
      · exact hP.setReg s _ _ h
  | sir r imm =>
    refine ⟨fun c s h => h, fun c s h => ?_, fun c s h => ?_⟩
    · simp only [bodyOf, sirBody]; split
      · exact h
      · exact hP.aluStep s _ _ h
    · simp only [bodyOf, sirBody]; split
      · exact h
      · exact hP.setReg s _ _ h
  | jz r x ind addr =>
    exact ⟨fun c s h => formEa_keeps hP _ _ _ _ c h, fun c s h => h, fun c s h => transferIfTaken_keeps hP c h⟩
  | jne r x ind addr =>
    exact ⟨fun c s h => formEa_keeps hP _ _ _ _ c h, fun c s h => h, fun c s h => transferIfTaken_keeps hP c h⟩
  | jcc sel x ind addr =>
    exact ⟨fun c s h => formEa_keeps hP _ _ _ _ c h, fun c s h => h, fun c s h => transferIfTaken_keeps hP c h⟩
  | jma x ind addr =>
    exact ⟨fun c s h => formEa_keeps hP _ _ _ _ c h, fun c s h => h, fun c s h => hP.setPc s _ h⟩
  | jsr x ind addr =>
    exact ⟨fun c s h => formEa_keeps hP _ _ _ _ c h, fun c s h => h,
      fun c s h => hP.setPc _ _ (hP.setReg s _ _ h)⟩
  | rfs imm => exact ⟨fun c s h => h, fun c s h => h, fun c s h => hP.setPc _ _ (hP.setReg s _ _ h)⟩
  | sob r x ind addr =>
    exact ⟨fun c s h => formEa_keeps hP _ _ _ _ c h, fun c s h => hP.aluStep s _ _ h,
      fun c s h => transferIfTaken_keeps hP c (hP.setReg s _ _ h)⟩
  | jge r x ind addr =>
    exact ⟨fun c s h => formEa_keeps hP _ _ _ _ c h, fun c s h => h, fun c s h => transferIfTaken_keeps hP c h⟩
  | mlt rx ry =>
    exact ⟨fun c s h => h, fun c s h => hP.aluStep s _ _ h, fun c s h => hP.setReg _ _ _ (hP.setReg s _ _ h)⟩
  | dvd rx ry =>
    exact ⟨fun c s h => h, fun c s h => aluDivide_keeps hP _ _ h,
      fun c s h => hP.setReg _ _ _ (hP.setReg s _ _ h)⟩
  | trr rx ry => exact ⟨fun c s h => h, fun c s h => hP.aluStep s _ _ h, fun c s h => h⟩
  | and rx ry => exact ⟨fun c s h => h, fun c s h => hP.aluStep s _ _ h, fun c s h => hP.setReg s _ _ h⟩
  | orr rx ry => exact ⟨fun c s h => h, fun c s h => hP.aluStep s _ _ h, fun c s h => hP.setReg s _ _ h⟩
  | not rx => exact ⟨fun c s h => h, fun c s h => hP.aluStep s _ _ h, fun c s h => hP.setReg s _ _ h⟩
  | trap hi code => exact absurd rfl hi
  | src r al lr count =>
    exact ⟨fun c s h => h, fun c s h => hP.aluStep s _ _ h, fun c s h => hP.setReg s _ _ h⟩
  | rrc r al lr count =>
    exact ⟨fun c s h => h, fun c s h => hP.aluStep s _ _ h, fun c s h => hP.setReg s _ _ h⟩
  | fadd fr x ind addr => exact floatBody_keeps hP false fr x ind addr
  | fsub fr x ind addr => exact floatBody_keeps hP true fr x ind addr
  | vadd fr x ind addr => exact ⟨fun c s h => h, fun c s h => h, fun c s h => h⟩
  | vsub fr x ind addr => exact ⟨fun c s h => h, fun c s h => h, fun c s h => h⟩
  | cnvrt r x ind addr =>
    refine ⟨fun c s h => fetchOperand_keeps hP _ _ _ _ c h, fun c s h => ?_, fun c s h => ?_⟩
    · simp only [bodyOf, cnvrtBody]
      split
      · exact hP.fpuStep s _ _ h
      · split
        · exact hP.fpuStep s _ _ h
        · exact h
    · simp only [bodyOf, cnvrtBody]
      split
      · exact hP.setReg s _ _ h
      · exact hP.setFloat s _ _ h
  | ldx x ind addr =>
    exact ⟨fun c s h => fetchOperand_keeps hP _ _ _ _ c h, fun c s h => h, fun c s h => hP.setIndex s _ _ h⟩
  | stx x ind addr =>
    exact ⟨fun c s h => formEa_keeps hP _ _ _ _ c h, fun c s h => h, fun c s h => storeOperand_keeps hP _ c h⟩
  | ldfr fr x ind addr =>
    refine ⟨fun c s h => fetchOperand_keeps hP _ _ _ _ c h, fun c s h => h, fun c s h => ?_⟩
    simp only [bodyOf, ldfrBody]
    split
    · exact hP.setFloat s _ _ h
    · exact h
  | stfr fr x ind addr =>
    refine ⟨fun c s h => formEa_keeps hP _ _ _ _ c h, fun c s h => h, fun c s h => ?_⟩
    simp only [bodyOf, stfrBody]
    split
    · exact storeOperand_keeps hP _ c h
    · exact h
  | inp r dev =>
    refine ⟨fun c s h => h, fun c s h => ?_, fun c s h => hP.setReg s _ _ h⟩
    simp only [bodyOf, inpBody]
    split
    · exact hP.wait s _ h
    · exact hP.setDevice s _ _ h
  | out r dev => exact ⟨fun c s h => h, fun c s h => hP.setDevice s _ _ h, fun c s h => h⟩
  | chk r dev =>
    refine ⟨fun c s h => h, fun c s h => ?_, fun c s h => hP.setReg s _ _ h⟩
    simp only [bodyOf, chkBody]
    split
    · exact h
    · exact h
    · exact hP.drawn s _ h

theorem trapBody_keeps (hP : BodyClosed P) (hi : BitVec 6) (code : BitVec 4) : BodyKeeps P (trapBody hi code) := by
  refine ⟨fun c s h => h, fun c s h => ?_, fun c s h => h⟩
  simp only [trapBody]
  split
  · split
    · exact h
    · next h1 =>
      have h1 := readAt_keeps hP.toUpdateClosed h1 h
      split
      · exact h1
      · next h2 => exact trapEnter_keeps hP _ c (readAt_keeps hP.toUpdateClosed h2 h1)
  · exact h

/-- Every instruction's phases keep a property the primitive updates keep. -/
theorem bodyOf_keeps (hP : BodyClosed P) (i : Instr) : BodyKeeps P (bodyOf i) := by
  by_cases hi : i.mnemonic = .TRAP
  · cases i <;> first | exact trapBody_keeps hP _ _ | cases hi
  · exact bodyOf_keeps_of_ne hP.toUpdateClosed i hi

theorem fetchPhase_keeps (hP : StepClosed P) {s : State} (h : P s) : P (fetchPhase s) := by
  unfold fetchPhase
  split
  · exact hP.stop s h
  · split
    · exact hP.dispatch _ _ (hP.setMar s _ h)
    · next hr => exact hP.fetched _ _ (readAt_keeps hP.toUpdateClosed hr h)

theorem runDecoded_keeps (hP : StepClosed P) {s t : State} (h : P s) (hr : runDecoded s = .next t) : P t := by
  unfold runDecoded at hr
  split at hr
  · exact exec_leads hP.leads (bodyOf_keeps hP.toBodyClosed _) h hr
  · cases hr
    exact hP.dispatch _ s h

theorem finishInstruction_keeps (hP : StepClosed P) {s : State} (h : P s) : P (finishInstruction s) :=
  finishInstruction_leads hP.leads (fun _ _ => bodyOf_keeps hP.toBodyClosed _) h

/-- A tick keeps a property the primitive updates keep. -/
theorem phaseStep_keeps (hP : StepClosed P) {s : State} (h : P s) : P (phaseStep s) := by
  unfold phaseStep
  split
  · exact fetchPhase_keeps hP h
  · unfold decodePhase
    split
    · exact decodeInto_leads hP.leads _ _ h
    · exact hP.dispatch _ s h
  · exact settle_leads hP.leads _ ((bodyOf_keeps hP.toBodyClosed _).of _ s h)
  · exact settle_leads hP.leads _ (executePhase_keeps (bodyOf_keeps hP.toBodyClosed _) _ h)
  · exact settle_leads hP.leads _ (storePhase_keeps (bodyOf_keeps hP.toBodyClosed _) _ h)

/-- A step keeps a property the primitive updates keep. -/
theorem step_keeps (hP : StepClosed P) {s t : State} (h : P s) (hs : step s = .next t) : P t := by
  unfold step at hs
  split at hs
  · cases hs
  · split at hs
    · cases hs
    · split at hs
      · have hf := fetchPhase_keeps hP h
        unfold runFetched at hs
        split at hs
        · exact runDecoded_keeps hP hf hs
        all_goals cases hs; exact hf
      · exact runDecoded_keeps hP h hs
      all_goals cases hs; exact finishInstruction_keeps hP h

end Step

end Sys2Proof.Machine
end

