-- ==== Sys2Proof/Tests/Slice0.lean ====
section
/-! SUPPORT. Tests of the model against the spec's own examples, and the witnesses that each obligation's
hypotheses can be met. Words and expected results are those of the rule or vector each comment names. -/

namespace Sys2Proof.Tests

open Sys2Proof Sys2Proof.Machine

/-! Helpers -/

/-- The launch premise with PC = 40 and the given memory (`95_test_vectors.md`). -/
def start (mem : Memory) : State := { State.reset with pc := 40, mem := mem }

/-- The same in supervisor mode. -/
def startSup (mem : Memory) : State := { start mem with msr := { State.reset.msr with supervisor := true } }

/-- The state a step leaves; reset where there is none. -/
def after (s : State) : State :=
  match step s with
  | .next t => t
  | .fault _ => State.reset
  | .refused _ => State.reset

/-- The outcome is a next state. -/
def isNext : Host.Outcome State Fault Refusal → Bool
  | .next _ => true
  | .fault _ => false
  | .refused _ => false

/-- The word 1 as binary digits. -/
def digitsOne : List Char := List.replicate 15 '0' ++ ['1']

/-- No flag set. -/
def noFlags : CC := CC.clear

/-! Well-formedness: one ill-formed term for each check (`30_encoding.md` R114) -/

theorem test_ill_formed_mlt_rx : Instr.wellFormed (.mlt .r1 .r0) = false := by decide
theorem test_ill_formed_mlt_ry : Instr.wellFormed (.mlt .r0 .r3) = false := by decide
theorem test_ill_formed_dvd_rx : Instr.wellFormed (.dvd .r3 .r0) = false := by decide
theorem test_ill_formed_dvd_ry : Instr.wellFormed (.dvd .r2 .r1) = false := by decide
theorem test_ill_formed_fadd : Instr.wellFormed (.fadd .illegal2 .x0 false 6) = false := by decide
theorem test_ill_formed_fsub : Instr.wellFormed (.fsub .illegal3 .x0 false 6) = false := by decide
theorem test_ill_formed_vadd : Instr.wellFormed (.vadd .illegal2 .x0 false 6) = false := by decide
theorem test_ill_formed_vsub : Instr.wellFormed (.vsub .illegal3 .x0 false 6) = false := by decide
theorem test_ill_formed_ldfr : Instr.wellFormed (.ldfr .illegal2 .x0 false 6) = false := by decide
theorem test_ill_formed_stfr : Instr.wellFormed (.stfr .illegal3 .x0 false 6) = false := by decide
theorem test_ill_formed_ldx : Instr.wellFormed (.ldx .x0 false 12) = false := by decide
theorem test_ill_formed_stx : Instr.wellFormed (.stx .x0 true 12) = false := by decide
theorem test_well_formed : ([.mlt .r2 .r0, .dvd .r0 .r2, .fadd .fr1 .x0 false 6, .stfr .fr0 .x3 true 31,
    .ldx .x1 false 0, .stx .x3 true 31, .trap 63 15] : List Instr).all Instr.wellFormed = true := by decide

/-! Decoding: for every constructor a word written out from its format (`30_encoding.md` R102 to R112); the
bits are opcode, then the format's fields from the high end -/

theorem test_decode_hlt : decode defaultOpcodeMap 0b000000_1111111111 = .ok (.hlt) := by decide
theorem test_decode_ldr : decode defaultOpcodeMap 0b000001_01_01_1_00010 = .ok (.ldr .r1 .x1 true 2) := by decide
theorem test_decode_str : decode defaultOpcodeMap 0b000010_10_01_0_00011 = .ok (.str .r2 .x1 false 3) := by decide
theorem test_decode_lda : decode defaultOpcodeMap 0b000011_11_01_0_11111 = .ok (.lda .r3 .x1 false 31) := by decide
theorem test_decode_amr : decode defaultOpcodeMap 0b000100_00_00_0_01010 = .ok (.amr .r0 .x0 false 10) := by decide
theorem test_decode_smr : decode defaultOpcodeMap 0b000101_10_00_0_01010 = .ok (.smr .r2 .x0 false 10) := by decide
theorem test_decode_air : decode defaultOpcodeMap 0b000110_00_11_1_01010 = .ok (.air .r0 10) := by decide
theorem test_decode_sir : decode defaultOpcodeMap 0b000111_01_00_0_00001 = .ok (.sir .r1 1) := by decide
theorem test_decode_jz : decode defaultOpcodeMap 0b001000_00_00_1_00011 = .ok (.jz .r0 .x0 true 3) := by decide
theorem test_decode_jne : decode defaultOpcodeMap 0b001001_01_10_0_10100 = .ok (.jne .r1 .x2 false 20) := by decide
theorem test_decode_jcc : decode defaultOpcodeMap 0b001010_11_00_0_10100 = .ok (.jcc .equal .x0 false 20) := by decide
theorem test_decode_jma : decode defaultOpcodeMap 0b001011_11_01_0_01000 = .ok (.jma .x1 false 8) := by decide
theorem test_decode_jsr : decode defaultOpcodeMap 0b001100_00_00_1_11001 = .ok (.jsr .x0 true 25) := by decide
theorem test_decode_rfs : decode defaultOpcodeMap 0b001101_00_00_0_00111 = .ok (.rfs 7) := by decide
theorem test_decode_sob : decode defaultOpcodeMap 0b001110_01_00_0_10100 = .ok (.sob .r1 .x0 false 20) := by decide
theorem test_decode_jge : decode defaultOpcodeMap 0b001111_10_00_0_10100 = .ok (.jge .r2 .x0 false 20) := by decide
theorem test_decode_mlt : decode defaultOpcodeMap 0b010000_00_10_111111 = .ok (.mlt .r0 .r2) := by decide
theorem test_decode_dvd : decode defaultOpcodeMap 0b010001_10_00_000000 = .ok (.dvd .r2 .r0) := by decide
theorem test_decode_trr : decode defaultOpcodeMap 0b010010_00_01_000000 = .ok (.trr .r0 .r1) := by decide
theorem test_decode_and : decode defaultOpcodeMap 0b010011_01_10_000000 = .ok (.and .r1 .r2) := by decide
theorem test_decode_orr : decode defaultOpcodeMap 0b010100_01_11_000000 = .ok (.orr .r1 .r3) := by decide
theorem test_decode_not : decode defaultOpcodeMap 0b010101_11_10_000000 = .ok (.not .r3) := by decide
theorem test_decode_trap : decode defaultOpcodeMap 0b011000_000001_0011 = .ok (.trap 1 3) := by decide
theorem test_decode_src : decode defaultOpcodeMap 0b011001_00_1_0_11_0100 = .ok (.src .r0 true false 4) := by decide
theorem test_decode_rrc : decode defaultOpcodeMap 0b011010_01_0_1_00_1111 = .ok (.rrc .r1 false true 15) := by decide
theorem test_decode_fadd : decode defaultOpcodeMap 0b011011_01_00_0_10000 = .ok (.fadd .fr1 .x0 false 16) := by decide
theorem test_decode_fsub : decode defaultOpcodeMap 0b011100_10_11_1_10000 = .ok (.fsub .illegal2 .x3 true 16) := by decide
theorem test_decode_vadd : decode defaultOpcodeMap 0b011101_00_00_0_10000 = .ok (.vadd .fr0 .x0 false 16) := by decide
theorem test_decode_vsub : decode defaultOpcodeMap 0b011110_11_00_0_10000 = .ok (.vsub .illegal3 .x0 false 16) := by decide
theorem test_decode_cnvrt : decode defaultOpcodeMap 0b011111_10_00_0_10110 = .ok (.cnvrt .r2 .x0 false 22) := by decide
theorem test_decode_ldx : decode defaultOpcodeMap 0b100001_11_10_0_01100 = .ok (.ldx .x2 false 12) := by decide
theorem test_decode_stx : decode defaultOpcodeMap 0b100010_00_11_0_01101 = .ok (.stx .x3 false 13) := by decide
theorem test_decode_ldfr : decode defaultOpcodeMap 0b101000_01_00_0_01110 = .ok (.ldfr .fr1 .x0 false 14) := by decide
theorem test_decode_stfr : decode defaultOpcodeMap 0b101001_00_00_0_10110 = .ok (.stfr .fr0 .x0 false 22) := by decide
theorem test_decode_inp : decode defaultOpcodeMap 0b110001_01_000_00010 = .ok (.inp .r1 2) := by decide
theorem test_decode_out : decode defaultOpcodeMap 0b110010_00_111_00001 = .ok (.out .r0 1) := by decide
theorem test_decode_chk : decode defaultOpcodeMap 0b110011_10_000_00010 = .ok (.chk .r2 2) := by decide
theorem test_decode_rejects : decode defaultOpcodeMap 0x5800 = .error (.illegalOpcode 0o26) := by decide
theorem test_encode_examples : [encode (.lda .r0 .x0 false 5), encode (.jma .x0 true 4), encode (.src .r0 true true 4),
    encode (.inp .r1 2), encode (.trap 0 3), encode .hlt] = [0x0C05, 0x2C24, 0x64C4, 0xC502, 0x6003, 0x0000] := by
  decide

/-! One step of each instruction: the spec's vectors and examples, at most two for each -/

/-- `95_test_vectors.md` V1. -/
theorem test_ldr_indirect_indexed :
    let s : State := { start [(12, 0xc8), (40, 0x562), (200, 0xbeef)] with index := ⟨10, 0, 0⟩ }
    ((after s).regs, (after s).pc) = (⟨0, 0xBEEF, 0, 0⟩, 41) := by decide
/-- `95_test_vectors.md` V2. -/
theorem test_ldr_protected :
    let s : State := { start [(1, 0x64), (40, 0x503)] with regs := ⟨0x55, 0, 0, 0⟩ }
    ((after s).regs, (after s).pc, (after s).mem.read 4, (after s).mem.read 5, (after s).mfr.packed) = (⟨0, 0, 0, 0⟩, 100, 41, 0x55, 1) := by decide
/-- `95_test_vectors.md` E5, first row. -/
theorem test_str_protected :
    let s : State := { start [(1, 0x64), (40, 0x903)] with regs := ⟨0, 9, 0, 0⟩ }
    ((after s).mem.read 3, (after s).mem.read 4, (after s).pc, (after s).regs) = (0, 41, 100, ⟨0, 9, 0, 0⟩) := by decide
/-- `95_test_vectors.md` E5, third row. -/
theorem test_str_last_word :
    let s : State := { start [(40, 0x987)] with regs := ⟨0, 9, 0, 0⟩, index := ⟨0, 0x07F8, 0⟩ }
    ((after s).mem.read 2047, (after s).pc) = (9, 41) := by decide
/-- `95_test_vectors.md` V5. -/
theorem test_lda_wraps :
    let s : State := { start [(40, 0xf5f)] with index := ⟨0xFFF0, 0, 0⟩ }
    ((after s).regs, (after s).pc) = (⟨0, 0, 0, 0x000F⟩, 41) := by decide
/-- `95_test_vectors.md` V7, the default. -/
theorem test_ldx_not_indexed :
    let s : State := { start [(12, 0x40), (16, 0x99), (40, 0x848c)] with index := ⟨0, 4, 0⟩ }
    (after s).index = ⟨0, 0x40, 0⟩ := by decide
/-- `95_test_vectors.md` V6. -/
theorem test_ldx_x0_is_no_op :
    let s : State := (start [(12, 0x5), (40, 0x840c)])
    ((after s).index, (after s).mfr.packed, (after s).pc, (after s).control) = (⟨0, 0, 0⟩, 0, 41, .fetch) := by decide
/-- `41_load_store.md` R184, X3 to 13. -/
theorem test_stx_stores :
    let s : State := { start [(40, 0x88cd)] with index := ⟨0, 0, 0x77⟩ }
    ((after s).mem.read 13, (after s).pc) = (0x77, 41) := by decide
/-- `95_test_vectors.md` P8, the first instruction. -/
theorem test_ldfr_loads :
    let s : State := (start [(20, 0x305), (40, 0xa014)])
    ((after s).fregs, (after s).cc) = (⟨0x0305, 0⟩, noFlags) := by decide
/-- `95_test_vectors.md` V8. -/
theorem test_ldfr_faulted_reads :
    let s : State := (start [(1, 0x64), (40, 0xa203)])
    ((after s).regs, (after s).mem.read 4, (after s).pc, (after s).mfr.packed) = (⟨0, 0, 0, 0⟩, 41, 100, 1) := by decide
/-- `95_test_vectors.md` P8, the third instruction. -/
theorem test_stfr_stores :
    let s : State := { start [(40, 0xa416)] with fregs := ⟨0x0306, 0⟩ }
    (after s).mem.read 22 = 0x0306 := by decide
/-- `95_test_vectors.md` V25. -/
theorem test_amr_carries :
    let s : State := { start [(10, 0x8001), (40, 0x120a)] with regs := ⟨0, 0, 0x7FFF, 0⟩ }
    ((after s).regs, (after s).cc) = (⟨0, 0, 0, 0⟩, ⟨true, false, false, false, false⟩) := by decide
/-- `95_test_vectors.md` V26. -/
theorem test_smr_equal :
    let s : State := { start [(10, 0x5), (40, 0x160a)] with regs := ⟨0, 0, 5, 0⟩ }
    ((after s).regs, (after s).cc) = (⟨0, 0, 0, 0⟩, noFlags) := by decide
/-- `43_arith_logic.md` R232, 0 - 1. -/
theorem test_smr_borrows :
    let s : State := (start [(10, 0x1), (40, 0x160a)])
    ((after s).regs, (after s).cc) = (⟨0, 0, 0xFFFF, 0⟩, ⟨false, true, false, false, false⟩) := by decide
/-- `95_test_vectors.md` V27. -/
theorem test_air_overflows :
    let s : State := { start [(40, 0x1901)] with regs := ⟨0, 0xFFFF, 0, 0⟩ }
    ((after s).regs, (after s).cc) = (⟨0, 0, 0, 0⟩, ⟨true, false, false, false, false⟩) := by decide
/-- `95_test_vectors.md` V28. -/
theorem test_air_zero_keeps_cc :
    let s : State := { start [(40, 0x1800)] with cc := ⟨false, false, false, true, false⟩ }
    ((after s).regs, (after s).cc, (after s).pc) = (⟨0, 0, 0, 0⟩, ⟨false, false, false, true, false⟩, 41) := by decide
/-- `43_arith_logic.md` R243, 0 - 1. -/
theorem test_sir_borrows :
    let s : State := (start [(40, 0x1d01)])
    ((after s).regs, (after s).cc) = (⟨0, 0xFFFF, 0, 0⟩, ⟨false, true, false, false, false⟩) := by decide
/-- `95_test_vectors.md` V17. -/
theorem test_jz_not_taken_still_reads :
    let s : State := { start [(1, 0x64), (40, 0x2023)] with regs := ⟨1, 0, 0, 0⟩ }
    ((after s).pc, (after s).mem.read 4, (after s).mem.read 5, (after s).mfr.packed) = (100, 41, 1, 1) := by decide
/-- `42_transfer.md` R200, R0 = 0. -/
theorem test_jz_taken :
    let s : State := (start [(40, 0x2014)])
    (after s).pc = 20 := by decide
/-- `42_transfer.md` R201, R1 = 1. -/
theorem test_jne_taken :
    let s : State := { start [(40, 0x2514)] with regs := ⟨0, 1, 0, 0⟩ }
    (after s).pc = 20 := by decide
/-- `95_test_vectors.md` V15. -/
theorem test_jcc_equal :
    let s : State := { start [(40, 0x2b14)] with cc := ⟨false, false, false, true, false⟩ }
    (after s).pc = 20 := by decide
/-- `95_test_vectors.md` V16. -/
theorem test_jcc_ignores_gt :
    let s : State := { start [(40, 0x2b14)] with cc := ⟨false, false, false, false, true⟩ }
    (after s).pc = 41 := by decide
/-- `95_test_vectors.md` V19. -/
theorem test_jma_beyond :
    let s : State := { start [(40, 0x2c48)] with index := ⟨0x07F8, 0, 0⟩ }
    ((after s).pc, (after s).mfr.packed) = (2048, 0) := by decide
/-- `95_test_vectors.md` V18. -/
theorem test_jma_indirect_protected :
    let s : State := (start [(1, 0x64), (40, 0x2c24)])
    ((after s).pc, (after s).mem.read 4, (after s).msr.supervisor) = (100, 41, true) := by decide
/-- `95_test_vectors.md` V20. -/
theorem test_jsr_links :
    let s : State := (start [(25, 0x12c), (40, 0x3039)])
    ((after s).regs, (after s).pc) = (⟨0, 0, 0, 41⟩, 300) := by decide
/-- `95_test_vectors.md` V24. -/
theorem test_rfs_returns :
    let s : State := { start [(40, 0x3400)] with regs := ⟨9, 0, 0, 0x1234⟩ }
    ((after s).regs, (after s).pc) = (⟨0, 0, 0, 0x1234⟩, 0x234) := by decide
/-- `95_test_vectors.md` V21. -/
theorem test_sob_from_zero :
    let s : State := (start [(40, 0x3914)])
    ((after s).regs, (after s).cc, (after s).pc) = (⟨0, 0xFFFF, 0, 0⟩, ⟨false, true, false, false, true⟩, 20) := by decide
/-- `95_test_vectors.md` V22. -/
theorem test_sob_ends :
    let s : State := { start [(40, 0x3914)] with regs := ⟨0, 1, 0, 0⟩ }
    ((after s).regs, (after s).cc, (after s).pc) = (⟨0, 0, 0, 0⟩, ⟨false, false, false, true, false⟩, 41) := by decide
/-- `95_test_vectors.md` V23, R2 = 0. -/
theorem test_jge_zero :
    let s : State := (start [(40, 0x3e14)])
    (after s).pc = 20 := by decide
/-- `95_test_vectors.md` V23, R2 = 0xFFFF. -/
theorem test_jge_negative :
    let s : State := { start [(40, 0x3e14)] with regs := ⟨0, 0, 0xFFFF, 0⟩ }
    (after s).pc = 41 := by decide
/-- `95_test_vectors.md` V29. -/
theorem test_mlt_full :
    let s : State := { start [(40, 0x4080)] with regs := ⟨0xFFFF, 0, 0xFFFF, 0⟩ }
    ((after s).regs, (after s).cc) = (⟨0xFFFE, 1, 0xFFFF, 0⟩, ⟨true, false, false, false, false⟩) := by decide
/-- `95_test_vectors.md` V31. -/
theorem test_mlt_faulted :
    let s : State := { start [(40, 0x4140)] with regs := ⟨3, 4, 7, 0⟩ }
    ((after s).regs, (after s).mfr.packed, (after s).pc) = (⟨3, 4, 7, 0⟩, 0, 41) := by decide
/-- `95_test_vectors.md` V30. -/
theorem test_dvd_small :
    let s : State := { start [(40, 0x4480)] with regs := ⟨3, 0, 7, 0⟩ }
    ((after s).regs, (after s).cc) = (⟨0, 3, 7, 0⟩, noFlags) := by decide
/-- `95_test_vectors.md` E3; the two results are free and not tested. -/
theorem test_dvd_by_zero :
    let s : State := { start [(40, 0x4480)] with regs := ⟨5, 0, 0, 0⟩ }
    ((after s).cc, (after s).mfr.packed, (after s).pc, (after s).regs.r2) = (⟨false, false, true, false, false⟩, 0, 41, 0) := by decide
/-- `95_test_vectors.md` V32. -/
theorem test_trr_greater :
    let s : State := { start [(40, 0x4840)] with regs := ⟨2, 1, 0, 0⟩ }
    ((after s).regs, (after s).cc) = (⟨2, 1, 0, 0⟩, ⟨false, false, false, false, true⟩) := by decide
/-- `43_arith_logic.md` R248. -/
theorem test_and_bits :
    let s : State := { start [(40, 0x4d80)] with regs := ⟨0, 0xFF0F, 0x0FF0, 0⟩ }
    ((after s).regs, (after s).cc) = (⟨0, 0x0F00, 0x0FF0, 0⟩, noFlags) := by decide
/-- `43_arith_logic.md` R249. -/
theorem test_orr_bits :
    let s : State := { start [(40, 0x5180)] with regs := ⟨0, 0xFF0F, 0x0FF0, 0⟩ }
    ((after s).regs, (after s).cc) = (⟨0, 0xFFFF, 0x0FF0, 0⟩, noFlags) := by decide
/-- `95_test_vectors.md` V33. -/
theorem test_not_bits :
    let s : State := { start [(40, 0x5400)] with regs := ⟨0x1234, 0, 0, 0⟩ }
    ((after s).regs, (after s).cc) = (⟨0xEDCB, 0, 0, 0⟩, noFlags) := by decide
/-- `95_test_vectors.md` 2.4. -/
theorem test_src_count_zero :
    let s : State := { start [(40, 0x6480)] with regs := ⟨0x8000, 0, 0, 0⟩, cc := ⟨false, false, false, false, true⟩ }
    ((after s).regs, (after s).cc) = (⟨0x8000, 0, 0, 0⟩, noFlags) := by decide
/-- `95_test_vectors.md` 2.4. -/
theorem test_rrc_left_15 :
    let s : State := { start [(40, 0x68cf)] with regs := ⟨1, 0, 0, 0⟩ }
    (after s).regs = ⟨0x8000, 0, 0, 0⟩ := by decide
/-- `95_test_vectors.md` 2.5. -/
theorem test_fadd_sums :
    let s : State := { start [(16, 0x301), (40, 0x6d10)] with fregs := ⟨0, 0x0305⟩ }
    ((after s).fregs, (after s).cc) = (⟨0, 0x0306⟩, noFlags) := by decide
/-- `95_test_vectors.md` 2.5. -/
theorem test_fadd_faulted :
    let s : State := { start [(16, 0x301), (40, 0x6e10)] with fregs := ⟨7, 0x0305⟩ }
    ((after s).fregs, (after s).pc) = (⟨7, 0x0305⟩, 41) := by decide
/-- `45_floating_vector.md` R309. -/
theorem test_fsub_negative :
    let s : State := { start [(16, 0x7), (40, 0x7010)] with fregs := ⟨5, 0⟩ }
    (after s).fregs = ⟨0x8002, 0⟩ := by decide
/-- `95_test_vectors.md` 2.5, `45_floating_vector.md` R310. -/
theorem test_vadd_is_refused :
    let s : State := (start [(40, 0x7410)])
    ((after s).refused, (after s).pc) = (some .vectorUnspecified, 41) := by decide
/-- `45_floating_vector.md` R311. -/
theorem test_vsub_is_refused :
    let s : State := (start [(40, 0x7810)])
    ((after s).refused, (after s).pc) = (some .vectorUnspecified, 41) := by decide
/-- `95_test_vectors.md` P8, the fourth instruction. -/
theorem test_cnvrt_to_fixed :
    let s : State := (start [(22, 0x306), (40, 0x7e16)])
    ((after s).regs, (after s).cc) = (⟨0, 0, 48, 0⟩, noFlags) := by decide
/-- `45_floating_vector.md` R312, selector 2. -/
theorem test_cnvrt_other_selector :
    let s : State := { start [(22, 0x306), (40, 0x7e16)] with regs := ⟨0, 0, 2, 0⟩ }
    ((after s).refused, (after s).control.phaseNumber) = (some .convertSelector, 4) := by decide
/-- `95_test_vectors.md` V34. -/
theorem test_in_takes_oldest :
    let s : State := (start [(40, 0xC400)]).setDevice 0 [0x41, 0x42]
    ((after s).regs, (after s).device 0) = (⟨0x41, 0, 0, 0⟩, [0x42]) := by decide
/-- `95_test_vectors.md` V35, at 40. -/
theorem test_in_waits :
    let s : State := (start [(40, 0xc502)])
    ((after s).pc, (after s).msr.waitingForCard, (after s).msr.readyForInput, (after s).control) = (40, true, false, .fetch) := by decide
/-- `95_test_vectors.md` V36. -/
theorem test_out_appends :
    let s : State := ({ start [(40, 0xC901)] with regs := ⟨0, 7, 0, 0⟩ } : State).setDevice 1 [3]
    ((after s).device 1, (after s).pc) = ([3, 7], 41) := by decide
/-- `95_test_vectors.md` V37. -/
theorem test_chk_empty :
    let s : State := { start [(40, 0xcc05)] with regs := ⟨5, 0, 0, 0⟩ }
    (after s).regs = ⟨0, 0, 0, 0⟩ := by decide
/-- `46_io_system.md` R342, the default mode. -/
theorem test_chk_nonempty :
    let s : State := (start [(40, 0xCE02)]).setDevice 2 [8, 9]
    ((after s).regs, (after s).device 2) = (⟨0, 0, 1, 0⟩, [8, 9]) := by decide
/-- `95_test_vectors.md` V41. -/
theorem test_hlt_stops :
    let s : State := { start [] with msr := { State.reset.msr with running := true } }
    ((after s).msr.running, (after s).pc, (after s).control.phaseNumber) = (false, 41, 5) := by decide
/-- `95_test_vectors.md` V38. -/
theorem test_trap_enters :
    let s : State := { start [(0, 0x32), (40, 0x6002), (52, 0x3c)] with regs := ⟨7, 0, 0, 0⟩ }
    ((after s).mem.read 2, (after s).msr.supervisor, (after s).pc, (after s).mfr.packed, (after s).regs.r0) = (41, true, 60, 0, 7) := by decide
/-- `95_test_vectors.md` V40. -/
theorem test_trap_beyond :
    let s : State := (start [(0, 0x7fd), (1, 0x64), (40, 0x6005)])
    ((after s).regs.r0, (after s).mem.read 4, (after s).mem.read 2, (after s).mfr.packed) = (3, 41, 0, 8) := by decide

/-! Faults, fetch, memory and floating point -/

/-- `95_test_vectors.md` E6. -/
theorem test_illegal_opcode :
    let s : State := { start [(1, 0x64), (40, 0x5800)] with regs := ⟨0x1234, 0, 0, 0⟩ }
    ((after s).regs.r0, (after s).pc, (after s).mem.read 4, (after s).mem.read 5, (after s).mfr.packed, (after s).control) = (2, 100, 41, 0x1234, 4, .fetch) := by decide
/-- `95_test_vectors.md` V42. -/
theorem test_fetch_protected :
    let s : State := { start [(1, 0x64)] with pc := 3 }
    ((after s).mem.read 4, (after s).regs.r0, (after s).pc) = (3, 0, 100) := by decide
/-- `95_test_vectors.md` V45. -/
theorem test_fetch_beyond :
    let s : State := { start [] with pc := 2048, msr := { State.reset.msr with running := true } }
    ((after s).msr.running, (after s).pc, (after s).control, (after s).mfr.packed) = (false, 2048, .fetch, 0) := by decide
/-- `95_test_vectors.md` V43. -/
theorem test_fault_in_handler :
    let s : State := { start [(1, 0x64), (40, 0x5800)] with msr := { State.reset.msr with supervisor := true, executingFaultHandler := true } }
    ((after s).fatal, (after s).mfr.packed, (after s).mem.read 4, (after s).control) = (true, 4, 0, .decode) := by decide
/-- `95_test_vectors.md` V7, LDX_EA_INDEXED true. -/
theorem test_ldx_indexed_parameter :
    let s : State := { start [(12, 0x40), (16, 0x99), (40, 0x848C)] with
      cfg := { defaultParams with ldxEaIndexed := true }, index := ⟨0, 4, 0⟩ }
    (after s).index = ⟨0, 0x99, 0⟩ := by decide
/-- `95_test_vectors.md` E2, both limits. -/
theorem test_add_overflow_limit : (addFlags 0xFFFF 0x7FFF 1, addFlags 0x7FFF 0x7FFF 1)
    = (⟨false, false, false, false, false⟩, ⟨true, false, false, false, false⟩) := by decide
/-- `20_memory.md` R68: a miss at 9 loads the block 8..11 as the newest line. -/
theorem test_read_miss_fills : ((start [(8, 2), (11, 5)]).afterLoad 9).cache = [⟨2, 2, 0, 0, 5⟩] := by decide
/-- `20_memory.md` R69: a store updates the cached word; `95_test_vectors.md` E4, step 5. -/
theorem test_store_updates_cache :
    (((start [(8, 2)]).afterLoad 8).storeWord 9 0xAAAA).cache = [⟨2, 2, 0xAAAA, 0, 0⟩] := by decide
/-- `20_memory.md` R68: the sixteenth line stays, the seventeenth evicts the oldest. -/
theorem test_fifo_evicts :
    let lines := (List.range 16).map (fun n => (⟨BitVec.ofNat 10 (n + 2), 0, 0, 0, 0⟩ : CacheLine))
    ((cacheInsert lines ⟨18, 1, 1, 1, 1⟩).map (fun l => l.tag.toNat)) = List.range' 3 16 := by decide
/-- Writing 0 removes the entry. -/
theorem test_write_canonical : (Memory.write [(7, 1), (9, 2)] 8 3, Memory.write [(7, 1), (9, 2)] 7 0)
    = ([(7, 1), (8, 3), (9, 2)], [(9, 2)]) := by decide
/-- `44_shift_rotate.md`, the tables on 0x8421 with count 4. -/
theorem test_shifts_8421 : [shiftWord false true true 4 0x8421, shiftWord false true false 4 0x8421,
    shiftWord false false false 4 0x8421, shiftWord false false true 4 0x8421] = [0x4210, 0x0842, 0xF842, 0x4210] := by decide
/-- `44_shift_rotate.md`, the tables on 0x8421 with count 4. -/
theorem test_rotates_8421 : [rotateWord true true 4 0x8421, rotateWord true false 4 0x8421,
    rotateWord false true 4 0x8421, rotateWord false false 4 0x8421] = [0x4218, 0x1842, 0xC210, 0x8842] := by decide
/-- `45_floating_vector.md`, FAddSub vectors: 40 + 256 scale, 5 - 7, and the saturated sum. -/
theorem test_faddsub : [fAddSub false 0x0180 0x0180, fAddSub true 5 7, fAddSub false 0x3FFF 0x3FFF]
    = [(0x0280, false), (0x8002, false), (0x3FFF, true)] := by decide
/-- `45_floating_vector.md`, conversion vectors: -1.5, the wrapped value; 511, -32768. -/
theorem test_conversions : ([floatToFixed 0xC103, floatToFixed 0x0FFF], [fixedToFloat 511, fixedToFloat 0x8000])
    = ([(0xFFFE, false), (0x8000, true)], [0x0280, 0x8880]) := by decide
/-- `70_reset_and_hazards.md` R412: most significant digit first; 15 digits or another character are no word. -/
theorem test_binary_digits : (wordOfDigits ("0000010100001010".toList), wordOfDigits ('1' :: List.replicate 15 '0'),
    wordOfDigits (List.replicate 15 '1'), wordOfDigits ('2' :: List.replicate 15 '0'))
    = (some 0x050A, some 0x8000, none, none) := by decide
/-- `70_reset_and_hazards.md` R412: strings load as their words; a bad string rejects the whole call. -/
theorem test_load_digits :
    (State.reset.loadProgramDigits ["0000110000000101".toList, digitsOne] 6 = State.reset.loadProgram [0x0C05, 1] 6)
      ∧ State.reset.loadProgramDigits [digitsOne, ['1']] 6 = State.reset := by decide
/-- `70_reset_and_hazards.md` R411: the vectors' start is the launch premise; supervisor mode, a register of the
engine or a device word breaks it. -/
theorem test_clean_entry : (start [(40, 1)]).CleanEntry { pc := 40, mem := [(40, 1)] }
    ∧ ¬(startSup []).CleanEntry { pc := 40 } ∧ ¬({ start [] with mar := 1 } : State).CleanEntry { pc := 40 }
    ∧ ¬((start []).setDevice 3 [1]).CleanEntry { pc := 40 } := by decide
/-- `70_reset_and_hazards.md` R417: an end named by phase 1 alone; log entry 15. -/
theorem test_run_ends : ((after (start [(40, 0x0000)])).runEnd, (after (start [(40, 0xC500)])).runEnd,
    ({ start [] with pc := 2048 } : State).runEnd, (start []).runEnd)
    = (some .halted, some .waitingInput, some .fellOff, some .paused) := by decide
/-- Decoding as the host asks for it. -/
theorem test_decode_table_word : (decodeTableWord 16 0x0562, decodeTableWord 16 0x5800)
    = (some (.ldr .r1 .x1 true 2), none) := by decide
/-- A placed word is the one the next step runs: AIR R1,1 at address 6, log entry 11. -/
theorem test_with_fetch_word : ((after (State.reset.withFetchWord 16 0x1901)).regs.r1,
    (after (State.reset.withFetchWord 16 0x1901)).pc) = (1, 7) := by decide

/-! Witnesses: for each obligation with hypotheses, a state and operands that meet them, at the boundary of each
clause -/

/-- A coherent state with a line cached. -/
def warm : State := { (startSup [(3, 7), (40, 0x050A), (2047, 9)]).afterLoad 3 with pc := 40 }

/-- X1 = 2037 in user mode: displacements 10 and 11 meet WORD_COUNT = 2048 from both sides. -/
def edge : State := { start [(6, 6), (7, 5), (8, 2048), (40, 0x050A)] with index := ⟨2037, 0, 0⟩ }

/-- Operand Fetch passes at the lowest and the highest legal address, direct and indirect; it faults one below
and one above. -/
abbrev OperandBoundaries (s : State) : Prop :=
  s.mem.wf ∧ s.Coherent
    ∧ s.operandFault true .x0 false 6 = none ∧ s.operandFault true .x0 true 6 = none
    ∧ s.operandFault true .x1 false 10 = none
    ∧ s.operandFault true .x0 false 5 = some .protectedAccess
    ∧ s.operandFault true .x0 true 5 = some .protectedAccess
    ∧ s.operandFault true .x0 true 7 = some .protectedAccess
    ∧ s.operandFault true .x1 false 11 = some .beyondLimit
    ∧ s.operandFault true .x0 true 8 = some .beyondLimit

/-- The same for an effective address alone, whose only access is the indirect one. -/
abbrev AddressBoundaries (s : State) : Prop :=
  s.mem.wf ∧ s.Coherent
    ∧ s.eaFault true .x0 false 5 = none ∧ s.eaFault true .x0 true 6 = none ∧ s.eaFault true .x1 true 10 = none
    ∧ s.eaFault true .x0 true 5 = some .protectedAccess ∧ s.eaFault true .x1 true 11 = some .beyondLimit

/-- The store's own access, after an effective address that passed. -/
abbrev StoreBoundaries (s : State) : Prop :=
  AddressBoundaries s
    ∧ s.faultAt (s.effectiveAddress true .x0 false 6) = none
    ∧ s.faultAt (s.effectiveAddress true .x1 false 10) = none
    ∧ s.faultAt (s.effectiveAddress true .x0 false 5) = some .protectedAccess
    ∧ s.faultAt (s.effectiveAddress true .x1 false 11) = some .beyondLimit

/-- LDX and STX, with the address not indexed and indexed. -/
abbrev IndexBoundaries (s : State) (x : IndexId) : Prop :=
  s.mem.wf ∧ s.Coherent
    ∧ s.operandFault false x false 6 = none ∧ s.operandFault false x false 5 = some .protectedAccess
    ∧ s.operandFault false x true 8 = some .beyondLimit
    ∧ s.eaFault false x true 6 = none ∧ s.faultAt (s.effectiveAddress false x false 6) = none
    ∧ s.eaFault false x true 5 = some .protectedAccess
    ∧ s.eaFault false x true 8 = none ∧ s.faultAt (s.effectiveAddress false x true 8) = some .beyondLimit

theorem test_witness_ignored_bits_do_not_change_decode :
    opcodeField 0x19E5 = Mnemonic.AIR.opcode
      ∧ (0x1905 : Word) &&& Mnemonic.AIR.relevantBits = 0x19E5 &&& Mnemonic.AIR.relevantBits := by decide
theorem test_witness_faulted_instructions_are_no_ops :
    OperandBoundaries edge ∧ AddressBoundaries edge ∧ IndexBoundaries edge .x0 ∧ edge.cfg.ldxEaIndexed = false
      ∧ Instr.wellFormed (.mlt .r1 .r0) = false ∧ Instr.wellFormed (.dvd .r0 .r3) = false
      ∧ FloatId.illegal2.legal = false ∧ FloatId.illegal3.legal = false := by decide
theorem test_witness_step_runs_decoded_instruction :
    warm.Coherent ∧ warm.Live ∧ warm.control = .fetch ∧ warm.pc.toNat < warm.cfg.wordCount
      ∧ (6 ≤ warm.pc.toNat ∨ warm.msr.supervisor = true)
      ∧ decode warm.cfg.opcodeMap (warm.mem.read warm.pc.toNat) = .ok (.ldr .r1 .x0 false 10) := by decide
theorem test_witness_undefined_opcode_faults :
    let s : State := { start [] with ir := 0x5800, control := .decode }
    let s' : State := start [(40, 0xFC00)]
    (s.Live ∧ s.control = .decode ∧ s.cfg.opcodeMap.lookup (s.ir.extractLsb' 10 6) = none)
      ∧ s'.Coherent ∧ s'.Live ∧ s'.control = .fetch ∧ s'.pc.toNat < s'.cfg.wordCount
      ∧ (6 ≤ s'.pc.toNat ∨ s'.msr.supervisor = true)
      ∧ s'.cfg.opcodeMap.lookup ((s'.mem.read s'.pc.toNat).extractLsb' 10 6) = none := by decide
theorem test_witness_fetch_beyond_memory_stops_the_loop :
    let s : State := { start [] with pc := 2048 }
    s.Live ∧ s.control = .fetch ∧ s.cfg.wordCount ≤ s.pc.toNat := by decide
theorem test_witness_fetch_reads_and_advances :
    let at_ : Addr → State := fun a => { start [] with pc := a }
    ((at_ 5).Coherent ∧ (at_ 5).Live ∧ (at_ 5).control = .fetch ∧ (at_ 5).pc.toNat < (at_ 5).cfg.wordCount)
      ∧ ((at_ 5).pc.toNat < 6 ∧ (at_ 5).msr.supervisor = false)
      ∧ ¬((at_ 6).pc.toNat < 6 ∧ (at_ 6).msr.supervisor = false)
      ∧ (at_ 2047).pc.toNat < (at_ 2047).cfg.wordCount
      ∧ ¬((at_ 2047).pc.toNat < 6 ∧ (at_ 2047).msr.supervisor = false) := by decide
theorem test_witness_marks_leave_no_step :
    ({ start [] with fatal := true } : State).fatal = true
      ∧ ({ start [] with refused := some .convertSelector } : State).fatal = false
      ∧ ({ start [] with refused := some .convertSelector } : State).refused = some .convertSelector
      ∧ (start []).Live := by decide
theorem test_witness_step_keeps_invariant :
    warm.Inv ∧ isNext (step warm) = true ∧ (start [(1, 100), (40, 0x0903)]).Inv
      ∧ isNext (step (start [(1, 100), (40, 0x0903)])) = true := by decide
theorem test_witness_cache_is_coherent :
    warm.mem.wf ∧ warm.Coherent ∧ warm.cache ≠ [] := by decide
theorem test_witness_read_miss_fills_fifo :
    (∀ l ∈ warm.cache, l.tag.toNat ≠ (2047 : Addr).toNat / 4) ∧ (∃ l ∈ warm.cache, l.tag.toNat = (0 : Addr).toNat / 4)
      ∧ warm.cfg.Valid ∧ (2047 : Addr).toNat < warm.cfg.wordCount := by decide
theorem test_witness_writes_update_in_place :
    warm.mem.wf ∧ warm.cache ≠ [] := by decide
theorem test_witness_access_check_raises :
    8 ≤ (start []).cfg.wordCount ∧ (start []).msr.supervisor = false
      ∧ (5 : Word).toNat % 4096 < 6 ∧ (4101 : Word).toNat % 4096 < 6
      ∧ (start []).cfg.wordCount ≤ (2048 : Word).toNat % 4096
      ∧ (2047 : Word).toNat % 4096 < (start []).cfg.wordCount ∧ 6 ≤ (6 : Word).toNat % 4096
      ∧ warm.msr.supervisor = true ∧ (0 : Word).toNat % 4096 < warm.cfg.wordCount := by decide
theorem test_witness_fault_dispatch_saves_and_vectors :
    warm.mem.wf ∧ warm.Coherent ∧ warm.msr.executingFaultHandler = false := by decide
theorem test_witness_fault_while_handling_is_fatal :
    (after (start [(1, 100), (40, 0x0903)])).msr.executingFaultHandler = true := by decide
theorem test_witness_nothing_leaves_supervisor :
    isNext (step warm) = true ∧ isNext (tick warm) = true ∧ warm.msr.supervisor = true
      ∧ (after (start [(1, 100), (40, 0x0903)])).msr.executingFaultHandler = true
      ∧ isNext (step (after (start [(1, 100), (40, 0x0903)]))) = true
      ∧ (after (startSup [(1, 100), (40, 0x5800)])).msr.supervisorFault = true := by decide
theorem test_witness_only_alu_and_fpu_write_cc :
    (Instr.jcc .equal .x0 false 20).mnemonic ∉ [Mnemonic.SOB, .AMR, .SMR, .AIR, .SIR, .MLT, .DVD, .TRR, .AND, .ORR,
        .NOT, .SRC, .RRC, .FADD, .FSUB, .CNVRT]
      ∧ isNext (exec (.jcc .equal .x0 false 20) (start [])) = true := by decide
theorem test_witness_only_in_and_out_change_devices :
    (Instr.chk .r0 5).mnemonic ∉ [Mnemonic.IN, .OUT] ∧ isNext (exec (.chk .r0 5) (start [])) = true := by decide
theorem test_witness_user_mode_cannot_write_protected_memory :
    let s : State := { start [(3, 7), (40, 0x0906)] with regs := ⟨0, 9, 0, 0⟩ }
    s.mem.wf ∧ isNext (step s) = true ∧ (after s).msr.supervisor = false := by decide
theorem test_witness_supervisor_entered_only_by_fault_or_trap :
    let traps : State := start [(0, 50), (40, 0x6003)]
    let faults : State := start [(40, 0x5800)]
    let inFlight : State := { start [] with control := .operandFetch (Record.new (.ldr .r0 .x0 false 5)) }
    traps.msr.supervisor = false ∧ (after traps).msr.supervisor = true
      ∧ faults.msr.supervisor = false ∧ (after faults).msr.supervisor = true
      ∧ inFlight.msr.supervisor = false ∧ (after inFlight).msr.supervisor = true
      ∧ (phaseStep inFlight).msr.supervisor = true
      ∧ (match exec (.trap 0 3) (start [(0, 50)]) with | .next t => t.msr.supervisor | _ => false) = true
      ∧ (match exec (.ldr .r0 .x0 false 5) (start []) with | .next t => t.msr.supervisor | _ => false) = true := by decide
theorem test_witness_ldr_loads_register :
    OperandBoundaries edge := by decide
theorem test_witness_amr_adds_operand :
    OperandBoundaries edge := by decide
theorem test_witness_smr_subtracts_operand :
    OperandBoundaries edge := by decide
theorem test_witness_ldx_loads_index_register :
    IndexBoundaries edge .x1 ∧ IndexBoundaries edge .x3 ∧ edge.cfg.ldxEaIndexed = false
      ∧ 6 ≤ (6 : BitVec 5).toNat ∧ (31 : BitVec 5).toNat < edge.cfg.wordCount ∧ warm.msr.supervisor = true
      ∧ ((edge.index.get .x1).toNat + (10 : BitVec 5).toNat) % 4096 < edge.cfg.wordCount
      ∧ ({ edge with cfg := { defaultParams with ldxEaIndexed := true } } : State).cfg.ldxEaIndexed = true := by decide
theorem test_witness_ldfr_loads_floating_register :
    OperandBoundaries edge ∧ FloatId.fr0.reg? = some .fr0 ∧ FloatId.fr1.reg? = some .fr1 := by decide
theorem test_witness_lda_loads_effective_address :
    AddressBoundaries edge ∧ edge.index.x1.toNat = 2037
      ∧ 6 ≤ (0 + (6 : BitVec 5).toNat) % 4096 ∧ (0 + (5 : BitVec 5).toNat) % 4096 < 6 ∧ edge.msr.supervisor = false
      ∧ warm.msr.supervisor = true ∧ (2037 + (10 : BitVec 5).toNat) % 4096 < edge.cfg.wordCount
      ∧ edge.cfg.wordCount ≤ (2037 + (11 : BitVec 5).toNat) % 4096 := by decide
theorem test_witness_jma_jumps :
    AddressBoundaries edge := by decide
theorem test_witness_jsr_links_in_r3 :
    AddressBoundaries edge := by decide
theorem test_witness_sob_decrements_and_branches :
    AddressBoundaries edge := by decide
theorem test_witness_str_stores_register :
    StoreBoundaries edge := by decide
theorem test_witness_stx_stores_index_register :
    IndexBoundaries edge .x1 ∧ IndexBoundaries edge .x3 ∧ edge.cfg.ldxEaIndexed = false := by decide
theorem test_witness_stfr_stores_floating_register :
    StoreBoundaries edge ∧ FloatId.fr0.reg? = some .fr0 ∧ FloatId.fr1.reg? = some .fr1 := by decide
theorem test_witness_zero_and_sign_jumps :
    AddressBoundaries edge
      ∧ (true = decide (edge.regs.get .r0 = 0)) ∧ (false = decide (edge.regs.get .r0 ≠ 0))
      ∧ (true = decide (0 ≤ (edge.regs.get .r0).toInt))
      ∧ (false = decide (0 ≤ (({ edge with regs := ⟨0x8000, 0, 0, 0⟩ } : State).regs.get .r0).toInt)) := by decide
theorem test_witness_jcc_jumps_on_selected_flag :
    AddressBoundaries edge ∧ CcSelector.overflow.bits.toNat = 0 ∧ CcSelector.equal.bits.toNat = 3 := by decide
theorem test_witness_air_sir_use_immediate :
    (31 : BitVec 5) ≠ 0 ∧ (1 : BitVec 5) ≠ 0 ∧ (32 : BitVec 5) = 0 := by decide
theorem test_witness_mlt_keeps_whole_product :
    ((RegId.r2 = .r0 ∧ RegId.r3 = .r1) ∨ (RegId.r2 = .r2 ∧ RegId.r3 = .r3)) ∧ (RegId.r0 = .r0 ∨ RegId.r0 = .r2)
      ∧ isNext (exec (.mlt .r2 .r0) warm) = true := by decide
theorem test_witness_dvd_divides_or_sets_dz :
    ((RegId.r0 = .r0 ∧ RegId.r1 = .r1) ∨ (RegId.r0 = .r2 ∧ RegId.r1 = .r3)) ∧ (RegId.r2 = .r0 ∨ RegId.r2 = .r2)
      ∧ (start []).regs.get .r2 = 0 ∧ ({ start [] with regs := ⟨5, 0, 1, 0⟩ } : State).regs.get .r2 ≠ 0 := by decide
theorem test_witness_src_shifts :
    ({ start [] with cfg := { defaultParams with aslPreservesSign := true } } : State).cfg.aslPreservesSign = true
      ∧ (start []).cfg.aslPreservesSign = false := by decide
theorem test_witness_rrc_rotates :
    isNext (exec (.rrc .r3 false false 15) warm) = true ∧ isNext (exec (.rrc .r0 true true 0) warm) = true := by decide
theorem test_witness_fadd_fsub_write_floating_register :
    OperandBoundaries edge ∧ FloatId.fr0.reg? = some .fr0 ∧ FloatId.fr1.reg? = some .fr1 := by decide
theorem test_witness_float_add_sub_formula :
    max (floatExponent 0x3FFF) (floatExponent 0x3EFF) = 63
      ∧ signed (floatSign 0x3FFF) (floatMantissa 0x3FFF / 2 ^ (63 - floatExponent 0x3FFF).toNat)
        + 1 * signed (floatSign 0x3EFF) (floatMantissa 0x3EFF / 2 ^ (63 - floatExponent 0x3EFF).toNat) = 382 := by decide
theorem test_witness_compose_is_exact :
    (-63 : ℤ) ≤ -63 ∧ (63 : ℤ) ≤ 63 ∧ compose true (-63) 255 = 0xFFFF ∧ compose false 63 0 = 0x3F00 := by decide
theorem test_witness_float_to_fixed_rounds :
    floatExponent 0xC103 = -1 ∧ floatMantissa 0xC103 = 3 ∧ (floatToFixed 0xC103).1.toInt = -2 := by decide
theorem test_witness_fixed_to_float_is_close :
    (255 : Word).toInt.natAbs ≤ 255 ∧ 255 < (256 : Word).toInt.natAbs ∧ 255 < (0x8000 : Word).toInt.natAbs := by decide
theorem test_witness_cnvrt_converts_by_selector :
    OperandBoundaries edge ∧ edge.regs.get .r0 = 0
      ∧ ({ edge with regs := ⟨1, 2, 0, 0⟩ } : State).regs.get .r0 = 1
      ∧ ({ edge with regs := ⟨1, 2, 0, 0⟩ } : State).regs.get .r1 ≠ 0
      ∧ ({ edge with regs := ⟨1, 2, 0, 0⟩ } : State).regs.get .r1 ≠ 1 := by decide
theorem test_witness_vector_instructions_are_refused :
    (start []).fatal = false := by decide
theorem test_witness_in_pops_or_waits :
    ((start []).setDevice 31 [7, 8]).device 31 = [7, 8] ∧ (start []).device 0 = [] ∧ (start []).device 2 = [] := by decide
theorem test_witness_chk_reads_status :
    (start []).cfg.chkMode = .nonEmptyBit
      ∧ (State.initial { defaultParams with chkMode := .size }).cfg.chkMode = .size
      ∧ (State.initial { defaultParams with chkMode := .draw }).cfg.chkMode = .draw := by decide
theorem test_witness_hlt_stops_the_run_loop :
    (start []).Live := by decide
theorem test_witness_trap_enters_through_table :
    let s : State := start [(0, 2032), (2047, 60)]
    s.cfg.Valid ∧ s.mem.wf ∧ s.Coherent
      ∧ (2047 : Addr) = BitVec.ofNat 12 ((s.mem.read 0).toNat + (15 : BitVec 4).toNat)
      ∧ (2047 : Addr).toNat < s.cfg.wordCount
      ∧ (2048 : Addr) = BitVec.ofNat 12 (((start [(0, 2033)]).mem.read 0).toNat + (15 : BitVec 4).toNat)
      ∧ s.cfg.wordCount ≤ (2048 : Addr).toNat ∧ (1 : BitVec 6) ≠ 0 := by decide
theorem test_witness_load_program_writes_block :
    (start [(40, 1)]).mem.wf ∧ (start []).cfg.wordCount ≤ 4096 ∧ 2046 + [(1 : Word), 2].length ≤ (start []).cfg.wordCount
      ∧ [(1 : Word), 2] ≠ [] ∧ (start []).cfg.wordCount < 2047 + [(1 : Word), 2].length
      ∧ [digitsOne].map wordOfDigits = [(1 : Word)].map some := by decide

end Sys2Proof.Tests
end

section
/-! The record an instruction runs with: every phase carries on the same instruction with the same faulted mark
(`40_control_unit.md` R144, R146). -/

namespace Sys2Proof.Machine

/-- The record a phase hands to the next one names the instruction of `c` and carries its faulted mark. -/
def PhaseResult.CarriesOn (c : Record) : PhaseResult → Prop
  | .done c' _ => c'.instr = c.instr ∧ c'.faulted = c.faulted
  | .halted c' _ => c'.instr = c.instr ∧ c'.faulted = c.faulted
  | .restart _ => True
  | .raise _ _ => True
  | .refuse _ _ => True

theorem carriesOn_done (c : Record) (s : State) : (PhaseResult.done c s).CarriesOn c := ⟨rfl, rfl⟩

theorem formEa_carriesOn (indexed : Bool) (x : IndexId) (ind : Bool) (addr : BitVec 5) (c : Record) (s : State) :
    (formEa indexed x ind addr c s).CarriesOn c := by
  unfold formEa
  split
  · split
    · trivial
    · exact carriesOn_done c _
  · exact carriesOn_done c _

theorem readOperand_carriesOn (c : Record) (s : State) : (readOperand c s).CarriesOn c := by
  unfold readOperand
  split
  · trivial
  · exact ⟨rfl, rfl⟩

theorem fetchOperand_carriesOn (indexed : Bool) (x : IndexId) (ind : Bool) (addr : BitVec 5) (c : Record)
    (s : State) : (fetchOperand indexed x ind addr c s).CarriesOn c := by
  have he := formEa_carriesOn indexed x ind addr c s
  unfold fetchOperand PhaseResult.andThen
  split
  · next c' s' hr =>
    rw [hr] at he
    obtain ⟨hinstr, hfaulted⟩ := he
    have ho := readOperand_carriesOn c' s'
    unfold PhaseResult.CarriesOn at ho ⊢
    rwa [hinstr, hfaulted] at ho
  · exact he

theorem storeOperand_carriesOn (v : Word) (c : Record) (s : State) : (storeOperand v c s).CarriesOn c := by
  unfold storeOperand
  split
  · trivial
  · exact carriesOn_done c _

theorem transferIfTaken_carriesOn (c : Record) (s : State) : (transferIfTaken c s).CarriesOn c := by
  unfold transferIfTaken
  split
  · exact carriesOn_done c _
  · exact carriesOn_done c _

theorem trapEnter_carriesOn (w : Word) (c : Record) (s : State) : (trapEnter w c s).CarriesOn c := by
  unfold trapEnter
  split
  · trivial
  · exact carriesOn_done c _

/-- Every phase of a body carries on the record's instruction and faulted mark. -/
structure BodyCarriesOn (b : Body) : Prop where
  of : ∀ c s, (b.of c s).CarriesOn c
  ex : ∀ c s, (b.ex c s).CarriesOn c
  rs : ∀ c s, (b.rs c s).CarriesOn c

theorem floatBody_carriesOn (subtract : Bool) (fr : FloatId) (x : IndexId) (ind : Bool) (addr : BitVec 5) :
    BodyCarriesOn (floatBody subtract fr x ind addr) where
  of := fetchOperand_carriesOn true x ind addr
  ex c s := by
    simp only [floatBody]
    split
    · exact carriesOn_done c _
    · exact carriesOn_done c _
  rs c s := by
    simp only [floatBody]
    split
    · exact carriesOn_done c _
    · exact carriesOn_done c _

theorem trapBody_carriesOn (hi : BitVec 6) (code : BitVec 4) : BodyCarriesOn (trapBody hi code) where
  of := carriesOn_done
  ex c s := by
    simp only [trapBody]
    split
    · split
      · trivial
      · split
        · trivial
        · exact trapEnter_carriesOn _ c _
    · trivial
  rs := carriesOn_done

/-- The phases of every instruction carry on its record, grouped by the form of the body. -/
theorem bodyOf_carriesOn (i : Instr) : BodyCarriesOn (bodyOf i) := by
  cases i
  case hlt | rfs | mlt | dvd | trr | and | orr | not | src | rrc | out =>
    exact ⟨carriesOn_done, fun _ _ => ⟨rfl, rfl⟩, fun _ _ => ⟨rfl, rfl⟩⟩
  case ldr | amr | smr =>
    exact ⟨fetchOperand_carriesOn _ _ _ _, fun _ _ => ⟨rfl, rfl⟩, fun _ _ => ⟨rfl, rfl⟩⟩
  case ldx =>
    exact ⟨fun _ _ => fetchOperand_carriesOn _ _ _ _ _ _, carriesOn_done, fun _ _ => ⟨rfl, rfl⟩⟩
  case lda | jma | jsr =>
    exact ⟨formEa_carriesOn _ _ _ _, carriesOn_done, fun _ _ => ⟨rfl, rfl⟩⟩
  case str | stx =>
    exact ⟨fun _ _ => formEa_carriesOn _ _ _ _ _ _, carriesOn_done, fun _ _ => storeOperand_carriesOn _ _ _⟩
  case jz | jne | jcc | jge | sob =>
    exact ⟨formEa_carriesOn _ _ _ _, fun _ _ => ⟨rfl, rfl⟩, fun _ _ => transferIfTaken_carriesOn _ _⟩
  case fadd fr x ind addr => exact floatBody_carriesOn false fr x ind addr
  case fsub fr x ind addr => exact floatBody_carriesOn true fr x ind addr
  case vadd | vsub => exact ⟨fun _ _ => trivial, fun _ _ => trivial, fun _ _ => trivial⟩
  case trap hi code => exact trapBody_carriesOn hi code
  case air | sir =>
    refine ⟨carriesOn_done, fun c s => ?_, fun c s => ?_⟩
    all_goals
      simp only [bodyOf, airBody, sirBody]
      split
      · exact carriesOn_done c _
      · exact carriesOn_done c _
  case cnvrt =>
    refine ⟨fetchOperand_carriesOn _ _ _ _, fun c s => ?_, fun c s => ?_⟩
    · simp only [bodyOf, cnvrtBody]
      split
      · exact ⟨rfl, rfl⟩
      · split
        · exact ⟨rfl, rfl⟩
        · trivial
    · simp only [bodyOf, cnvrtBody]
      split
      · exact carriesOn_done c _
      · exact carriesOn_done c _
  case ldfr =>
    refine ⟨fetchOperand_carriesOn _ _ _ _, carriesOn_done, fun c s => ?_⟩
    simp only [bodyOf, ldfrBody]
    split
    · exact carriesOn_done c _
    · exact carriesOn_done c _
  case stfr =>
    refine ⟨formEa_carriesOn _ _ _ _, carriesOn_done, fun c s => ?_⟩
    simp only [bodyOf, stfrBody]
    split
    · exact storeOperand_carriesOn _ c _
    · exact carriesOn_done c _
  case inp =>
    refine ⟨carriesOn_done, fun c s => ?_, fun _ _ => ⟨rfl, rfl⟩⟩
    simp only [bodyOf, inpBody]
    split
    · trivial
    · exact ⟨rfl, rfl⟩
  case chk =>
    refine ⟨carriesOn_done, fun c s => ?_, fun _ _ => ⟨rfl, rfl⟩⟩
    simp only [bodyOf, chkBody]
    split
    · exact ⟨rfl, rfl⟩
    · exact ⟨rfl, rfl⟩
    · exact ⟨rfl, rfl⟩

theorem executePhase_carriesOn {b : Body} (hb : BodyCarriesOn b) (c : Record) (s : State) :
    (executePhase b c s).CarriesOn c := by
  unfold executePhase
  split
  · exact carriesOn_done c s
  · exact hb.ex c s

theorem storePhase_carriesOn {b : Body} (hb : BodyCarriesOn b) (c : Record) (s : State) :
    (storePhase b c s).CarriesOn c := by
  unfold storePhase
  split
  · exact carriesOn_done c s
  · exact hb.rs c s

end Sys2Proof.Machine
end

section
/-! A step is one to five ticks (`40_control_unit.md` R140, R160; log entry 1). -/

namespace Sys2Proof.Machine

/-- No update of an instruction's phases sets a mark. -/
theorem live_bodyClosed : BodyClosed State.Live where
  setReg _ _ _ h := h
  setIndex _ _ _ h := h
  setFloat _ _ _ h := h
  setPc _ _ h := h
  setIar _ _ h := h
  aluStep _ _ _ h := h
  fpuStep _ _ _ h := h
  drawn _ _ h := h
  setDevice _ _ _ h := h
  wait _ _ h := h
  stop _ h := h
  load _ _ h := h
  store _ _ _ _ h := h
  trap _ _ _ _ h := h

/-- The outcome is that of at least one and at most `m` ticks. -/
def TicksWithin (m : Nat) (s : State) (o : Host.Outcome State Fault Refusal) : Prop :=
  ∃ n, 1 ≤ n ∧ n ≤ m ∧ o = ticks n s

theorem tick_of_live {s : State} (h : s.Live) : tick s = .next (phaseStep s) := by
  obtain ⟨hfatal, hrefused⟩ := h
  simp [tick, hfatal, hrefused]

theorem ticks_one (s : State) : ticks 1 s = tick s := by
  unfold ticks
  split
  · next ht => rw [ht]; rfl
  · next ht => rw [ht]
  · next ht => rw [ht]

theorem ticksWithin_tick (m : Nat) (s : State) : TicksWithin (m + 1) s (tick s) :=
  ⟨1, le_rfl, by omega, (ticks_one s).symm⟩

theorem ticksWithin_phaseStep {s : State} (h : s.Live) (m : Nat) :
    TicksWithin (m + 1) s (.next (phaseStep s)) :=
  tick_of_live h ▸ ticksWithin_tick m s

theorem TicksWithin.succ {m : Nat} {s : State} {o : Host.Outcome State Fault Refusal} (h : s.Live)
    (ho : TicksWithin m (phaseStep s) o) : TicksWithin (m + 1) s o := by
  obtain ⟨n, hlow, hhigh, rfl⟩ := ho
  exact ⟨n + 1, by omega, by omega, by simp only [ticks, tick_of_live h]⟩

theorem TicksWithin.mono {m m' : Nat} {s : State} {o : Host.Outcome State Fault Refusal} (hm : m ≤ m')
    (h : TicksWithin m s o) : TicksWithin m' s o := by
  obtain ⟨n, hlow, hhigh, ho⟩ := h
  exact ⟨n, hlow, hhigh.trans hm, ho⟩

theorem runStore_ticksWithin {s : State} {c : Record} (h : s.Live) (hc : s.control = .resultStore c) :
    TicksWithin 1 s (.next (runStore (bodyOf c.instr) c s)) := by
  have hp : phaseStep s = runStore (bodyOf c.instr) c s := by simp only [phaseStep, hc, runStore]
  exact hp ▸ ticksWithin_phaseStep h 0

theorem runExecute_ticksWithin {s : State} {c : Record} (h : s.Live) (hc : s.control = .execute c) :
    TicksWithin 2 s (.next (runExecute (bodyOf c.instr) c s)) := by
  have hp : phaseStep s = settle .resultStore (executePhase (bodyOf c.instr) c s) := by
    simp only [phaseStep, hc]
  have hcarry := executePhase_carriesOn (bodyOf_carriesOn c.instr) c s
  have hlive := executePhase_keeps (bodyOf_keeps live_bodyClosed c.instr) c h
  unfold runExecute
  split
  · next c' s' he =>
    rw [he] at hp hcarry hlive
    refine TicksWithin.succ h ?_
    rw [hp, ← hcarry.1]
    exact runStore_ticksWithin hlive rfl
  · exact hp ▸ ticksWithin_phaseStep h 1

theorem runOperandFetch_ticksWithin {s : State} {c : Record} (h : s.Live) (hc : s.control = .operandFetch c) :
    TicksWithin 3 s (.next (runOperandFetch (bodyOf c.instr) c s)) := by
  have hp : phaseStep s = settle .execute ((bodyOf c.instr).of c s) := by simp only [phaseStep, hc]
  have hcarry := (bodyOf_carriesOn c.instr).of c s
  have hlive := (bodyOf_keeps live_bodyClosed c.instr).of c s h
  unfold runOperandFetch
  split
  · next c' s' he =>
    rw [he] at hp hcarry hlive
    refine TicksWithin.succ h ?_
    rw [hp, ← hcarry.1]
    exact runExecute_ticksWithin hlive rfl
  · exact hp ▸ ticksWithin_phaseStep h 2

theorem perform_ticksWithin {s : State} {i : Instr} (h : s.Live) (hp : phaseStep s = decodeInto (bodyOf i) i s) :
    TicksWithin 4 s (.next (perform (bodyOf i) i s)) := by
  unfold perform
  split
  · exact hp ▸ ticksWithin_phaseStep h 3
  · next hr =>
    refine TicksWithin.succ h ?_
    rw [hp, decodeInto, hr]
    exact runOperandFetch_ticksWithin (c := Record.new i) h rfl

theorem runDecoded_ticksWithin {s : State} (h : s.Live) (hc : s.control = .decode) :
    TicksWithin 4 s (runDecoded s) := by
  have hp : phaseStep s = decodePhase s := by simp only [phaseStep, hc]
  unfold runDecoded
  split
  · next i hi =>
    simp only [decodePhase, hi] at hp
    rw [exec_eq_perform]
    exact perform_ticksWithin h hp
  · next hi =>
    simp only [decodePhase, hi] at hp
    exact hp ▸ ticksWithin_phaseStep h 3

/-- A dispatched fault ends in phase 1, or, fatal, leaves the phase counter and the record. -/
theorem faultDispatch_control (k : FaultCode) (s : State) :
    (faultDispatch k s).control = .fetch ∨ (faultDispatch k s).control = s.control := by
  unfold faultDispatch
  split
  · exact .inr rfl
  · exact .inl rfl

/-- Instruction Fetch ends the step, in phase 1, or goes on in phase 2 with no mark set. -/
theorem fetchPhase_control {s : State} (h : s.Live) (hc : s.control = .fetch) :
    (fetchPhase s).control = .fetch ∨ ((fetchPhase s).control = .decode ∧ (fetchPhase s).Live) := by
  unfold fetchPhase
  split
  · exact .inl hc
  · split
    · next k _ => exact .inl ((faultDispatch_control k _).elim id (·.trans hc))
    · next s' hr =>
      have hlive : s'.Live := readAt_keeps live_bodyClosed.toUpdateClosed hr h
      exact .inr ⟨rfl, hlive⟩

theorem runFetched_ticksWithin {s : State} (h : s.Live) (hc : s.control = .fetch) :
    TicksWithin 5 s (runFetched (fetchPhase s)) := by
  have hp : phaseStep s = fetchPhase s := by simp only [phaseStep, hc]
  rw [← hp]
  rcases hp ▸ fetchPhase_control h hc with hf | ⟨hd, hlive⟩
  · simp only [runFetched, hf]
    exact ticksWithin_phaseStep h 4
  · simp only [runFetched, hd]
    exact TicksWithin.succ h (runDecoded_ticksWithin hlive hd)

theorem step_ticksWithin_of_live {s : State} (h : s.Live) : TicksWithin 5 s (step s) := by
  have ⟨hfatal, hrefused⟩ := h
  cases hc : s.control with
  | fetch =>
    simp only [step, hfatal, hrefused, hc]
    exact runFetched_ticksWithin h hc
  | decode =>
    simp only [step, hfatal, hrefused, hc]
    exact (runDecoded_ticksWithin h hc).mono (by decide)
  | operandFetch c =>
    simp only [step, hfatal, hrefused, hc, finishInstruction]
    exact (runOperandFetch_ticksWithin h hc).mono (by decide)
  | execute c =>
    simp only [step, hfatal, hrefused, hc, finishInstruction]
    exact (runExecute_ticksWithin h hc).mono (by decide)
  | resultStore c =>
    simp only [step, hfatal, hrefused, hc, finishInstruction]
    exact (runStore_ticksWithin h hc).mono (by decide)

/-- A marked state has no step and no tick, for the same reason. -/
theorem step_eq_tick_of_not_live {s : State} (h : ¬s.Live) : step s = tick s := by
  cases hf : s.fatal with
  | true => simp only [step, tick, hf, if_true]
  | false =>
    cases hr : s.refused with
    | some r => simp only [step, tick, hf, hr]
    | none => exact absurd ⟨hf, hr⟩ h

/-- Settles O11: phase by phase from the last, each phase adding its tick to those of the phases after it. -/
theorem stepIsAtMostFivePhases : Obligations.StepIsAtMostFivePhases := by
  intro s
  by_cases h : s.Live
  · exact step_ticksWithin_of_live h
  · exact step_eq_tick_of_not_live h ▸ ticksWithin_tick 4 s

end Sys2Proof.Machine
end

section
/-! The invariant of the engine, in three parts: memory and cache, the fault flags, and the record. The first two
are kept by every primitive update; the record's mark is kept by each phase. -/

namespace Sys2Proof.Machine

/-- The part of the invariant about the parameters, memory and the cache. -/
def State.StorageInv (s : State) : Prop :=
  s.cfg.Valid ∧ s.mem.wf ∧ s.MemoryInRange ∧ s.CacheShape ∧ s.Coherent

/-- The part of the invariant about MSR and MFR. -/
def State.FlagInv (s : State) : Prop := s.HandlerPrivileged ∧ s.FaultRecorded

theorem State.inv_iff {s : State} : s.Inv ↔ s.StorageInv ∧ s.FlagInv ∧ s.RecordMarked := by
  unfold State.Inv State.StorageInv State.FlagInv
  tauto

/-! Memory and cache -/

theorem lt_of_checkAccess_none {n : Nat} {a : Addr} {priv : Bool} (h : checkAccess n a priv = none) :
    a.toNat < n := by
  unfold checkAccess at h
  split at h
  · cases h
  · split at h
    · cases h
    · omega

theorem State.StorageInv.afterLoad {s : State} (h : s.StorageInv) (a : Addr) : (s.afterLoad a).StorageInv := by
  obtain ⟨hcfg, hwf, hrange, hshape, hcoh⟩ := h
  exact ⟨hcfg, hwf, hrange, State.cacheShape_afterLoad hshape a, State.coherent_afterLoad hcoh a⟩

theorem State.StorageInv.storeWord {s : State} (h : s.StorageInv) {a : Addr} (ha : a.toNat < s.cfg.wordCount)
    (v : Word) : (s.storeWord a v).StorageInv := by
  obtain ⟨hcfg, hwf, hrange, hshape, hcoh⟩ := h
  refine ⟨hcfg, Memory.write_wf hwf _ v, fun c hc => ?_, State.cacheShape_storeWord hshape a v,
    State.coherent_storeWord hwf hcoh a v⟩
  rcases Memory.mem_write_key hc with hc | rfl
  · exact hrange c hc
  · exact ha

/-- The words a dispatched fault saves, at 4 and 5, lie in memory: WORD_COUNT is at least 8. -/
theorem State.StorageInv.faultDispatch {s : State} (h : s.StorageInv) (k : FaultCode) :
    (faultDispatch k s).StorageInv := by
  have ⟨⟨hcount, _⟩, _⟩ := h
  unfold Machine.faultDispatch
  split
  · exact h
  · have h4 := State.StorageInv.storeWord (s := { s with mfr := MFR.only k, msr := s.msr.enterFault })
      (a := 4) h (show 4 < s.cfg.wordCount by omega) (s.pc.setWidth 16)
    have h5 := h4.storeWord (a := 5) (show 5 < s.cfg.wordCount by omega) (s.regs.get .r0)
    exact h5.afterLoad 1

theorem storageInv_stepClosed : StepClosed State.StorageInv where
  setControl _ _ h := h
  dispatch k _ h := h.faultDispatch k
  refuse _ _ h := h
  setReg _ _ _ h := h
  setIndex _ _ _ h := h
  setFloat _ _ _ h := h
  setPc _ _ h := h
  setIar _ _ h := h
  aluStep _ _ _ h := h
  fpuStep _ _ _ h := h
  drawn _ _ h := h
  setDevice _ _ _ h := h
  wait _ _ h := h
  stop _ h := h
  load _ a h := h.afterLoad a
  store _ _ v hc h := h.storeWord (lt_of_checkAccess_none hc) v
  trap _ v _ hc h := h.storeWord (lt_of_checkAccess_none hc) v
  setMar _ _ h := h
  fetched _ _ h := h

/-! The fault flags -/

theorem MFR.count_only (k : FaultCode) : (MFR.only k).count = 1 := by cases k <;> rfl

theorem State.FlagInv.waitForInput {s : State} (h : s.FlagInv) (dev : BitVec 5) : (s.waitForInput dev).FlagInv := by
  unfold State.waitForInput
  dsimp only
  split
  · exact h
  · exact h

/-- TRAP's entry sets supervisor mode, and neither enters nor leaves a fault handler. -/
theorem State.FlagInv.enterSupervisor {s : State} (h : s.FlagInv) :
    State.FlagInv { s with msr := { s.msr with supervisor := true } } :=
  ⟨⟨fun _ => rfl, fun _ => rfl⟩, h.2⟩

/-- A dispatched fault records one kind and enters the handler in supervisor mode; a fatal one was raised in a
handler already. -/
theorem State.FlagInv.faultDispatch {s : State} (h : s.FlagInv) (k : FaultCode) : (faultDispatch k s).FlagInv := by
  unfold Machine.faultDispatch
  split
  · next hx =>
    refine ⟨h.1, ?_⟩
    show (MFR.only k).count = if s.msr.executingFaultHandler then 1 else 0
    rw [hx, MFR.count_only, if_pos rfl]
  · exact ⟨⟨fun _ => rfl, fun _ => rfl⟩, MFR.count_only k⟩

theorem flagInv_stepClosed : StepClosed State.FlagInv where
  setControl _ _ h := h
  dispatch k _ h := h.faultDispatch k
  refuse _ _ h := h
  setReg _ _ _ h := h
  setIndex _ _ _ h := h
  setFloat _ _ _ h := h
  setPc _ _ h := h
  setIar _ _ h := h
  aluStep _ _ _ h := h
  fpuStep _ _ _ h := h
  drawn _ _ h := h
  setDevice _ _ _ h := h
  wait _ d h := h.waitForInput d
  stop _ h := h
  load _ _ h := h
  store _ _ _ _ h := h
  trap _ _ _ _ h := State.FlagInv.enterSupervisor h
  setMar _ _ h := h
  fetched _ _ h := h

/-! The record -/

/-- The faulted mark is set exactly when an operand id is illegal (`40_control_unit.md` R146). -/
def Record.Marked (c : Record) : Prop := c.faulted = !c.instr.wellFormed

theorem recordMarked_bodyClosed : BodyClosed State.RecordMarked where
  setReg _ _ _ h := h
  setIndex _ _ _ h := h
  setFloat _ _ _ h := h
  setPc _ _ h := h
  setIar _ _ h := h
  aluStep _ _ _ h := h
  fpuStep _ _ _ h := h
  drawn _ _ h := h
  setDevice _ _ _ h := h
  wait _ _ h := h
  stop _ h := h
  load _ _ h := h
  store _ _ _ _ h := h
  trap _ _ _ _ h := h

theorem recordMarked_of_no_record {s : State} (h : s.control.record? = none) : s.RecordMarked := by
  simp [State.RecordMarked, h]

theorem recordMarked_of_record {s : State} {c : Record} (h : s.control.record? = some c) :
    s.RecordMarked ↔ c.Marked := by
  simp [State.RecordMarked, Record.Marked, h]

theorem recordMarked_faultDispatch {s : State} (h : s.RecordMarked) (k : FaultCode) :
    (faultDispatch k s).RecordMarked := by
  rcases faultDispatch_control k s with hc | hc
  · exact recordMarked_of_no_record (by rw [hc]; rfl)
  · rw [State.RecordMarked, hc]
    exact h

theorem Record.Marked.of_eq {c c' : Record} (h : c.Marked) (hc : c'.instr = c.instr ∧ c'.faulted = c.faulted) :
    c'.Marked := by
  obtain ⟨hinstr, hfaulted⟩ := hc
  rw [Record.Marked, hinstr, hfaulted]
  exact h

/-- A phase that carries on a marked record leaves a marked one, whichever phase comes next. -/
theorem recordMarked_settle {next : Record → Control}
    (hn : ∀ c, (next c).record? = some c ∨ (next c).record? = none) {c : Record} {r : PhaseResult}
    (hc : c.Marked) (hr : r.CarriesOn c) (hs : r.state.RecordMarked) :
    (settle next r).RecordMarked := by
  have moved (c' : Record) (s : State) (h' : c'.instr = c.instr ∧ c'.faulted = c.faulted) :
      (s.setControl (next c')).RecordMarked := by
    rcases hn c' with hk | hk
    · exact (recordMarked_of_record hk).mpr (hc.of_eq h')
    · exact recordMarked_of_no_record hk
  cases r with
  | done c' s => exact moved c' s hr
  | halted c' s => exact moved c' s hr
  | restart s => exact recordMarked_of_no_record rfl
  | raise k s => exact recordMarked_faultDispatch hs k
  | refuse r s => exact hs

theorem recordMarked_fetchPhase {s : State} (h : s.RecordMarked) : (fetchPhase s).RecordMarked := by
  unfold fetchPhase
  split
  · exact h
  · split
    · next k _ => exact recordMarked_faultDispatch (s := { s with mar := s.pc }) h k
    · exact recordMarked_of_no_record rfl

theorem recordMarked_decodePhase {s : State} (h : s.RecordMarked) : (decodePhase s).RecordMarked := by
  unfold decodePhase
  split
  · next i _ =>
    unfold decodeInto
    split
    · exact h
    · exact (recordMarked_of_record rfl).mpr (Record.new_faulted i)
  · exact recordMarked_faultDispatch h _

theorem recordMarked_phaseStep {s : State} (h : s.RecordMarked) : (phaseStep s).RecordMarked := by
  unfold phaseStep
  split
  · exact recordMarked_fetchPhase h
  · exact recordMarked_decodePhase h
  · next c hc =>
    have hm : c.Marked := (recordMarked_of_record (by rw [hc]; rfl)).mp h
    exact recordMarked_settle (fun _ => .inl rfl) hm ((bodyOf_carriesOn _).of c s)
      ((bodyOf_keeps recordMarked_bodyClosed _).of c s h)
  · next c hc =>
    have hm : c.Marked := (recordMarked_of_record (by rw [hc]; rfl)).mp h
    exact recordMarked_settle (fun _ => .inl rfl) hm (executePhase_carriesOn (bodyOf_carriesOn _) c s)
      (executePhase_keeps (bodyOf_keeps recordMarked_bodyClosed _) c h)
  · next c hc =>
    have hm : c.Marked := (recordMarked_of_record (by rw [hc]; rfl)).mp h
    exact recordMarked_settle (fun _ => .inr rfl) hm (storePhase_carriesOn (bodyOf_carriesOn _) c s)
      (storePhase_keeps (bodyOf_keeps recordMarked_bodyClosed _) c h)

/-! The invariant -/

theorem inv_phaseStep {s : State} (h : s.Inv) : (phaseStep s).Inv := by
  obtain ⟨hstorage, hflags, hrecord⟩ := State.inv_iff.mp h
  exact State.inv_iff.mpr ⟨phaseStep_keeps storageInv_stepClosed hstorage,
    phaseStep_keeps flagInv_stepClosed hflags, recordMarked_phaseStep hrecord⟩

theorem inv_tick {s t : State} (h : s.Inv) (ht : tick s = .next t) : t.Inv := by
  unfold tick at ht
  split at ht
  · cases ht
  · split at ht
    · cases ht
    · cases ht
      exact inv_phaseStep h

theorem inv_ticks {n : Nat} {s t : State} (h : s.Inv) (ht : ticks n s = .next t) : t.Inv := by
  induction n generalizing s with
  | zero =>
    cases ht
    exact h
  | succ n ih =>
    unfold ticks at ht
    split at ht
    · next s' hs' => exact ih (inv_tick h hs') ht
    · cases ht
    · cases ht

/-- Settles O14: a step is some number of ticks, and every tick keeps the invariant. -/
theorem stepKeepsInvariant : Obligations.StepKeepsInvariant := by
  intro s t h hs
  obtain ⟨n, -, -, hn⟩ := stepIsAtMostFivePhases s
  exact inv_ticks h (hn ▸ hs)

theorem inv_initial {cfg : Params} (h : cfg.Valid) : (State.initial cfg).Inv :=
  ⟨h, ⟨List.Pairwise.nil, List.forall_mem_nil _⟩, List.forall_mem_nil _, ⟨Nat.zero_le 16, List.Pairwise.nil⟩,
    List.forall_mem_nil _, recordMarked_of_no_record rfl, ⟨nofun, nofun⟩, rfl⟩

/-- Settles O13: under any valid parameters the initial state meets the invariant, and the defaults are valid. -/
theorem resetMeetsInvariant : Obligations.ResetMeetsInvariant := inv_initial (by decide)

end Sys2Proof.Machine
end

section
/-! The marks and the tick (`10_state.md` R36, R37; `40_control_unit.md` R140). -/

namespace Sys2Proof.Machine

theorem tick_of_fatal {s : State} (h : s.fatal = true) : tick s = .fault .fatalStop := by
  simp [tick, h]

theorem tick_of_refused {s : State} {r : RefuseReason} (hf : s.fatal = false) (hr : s.refused = some r) :
    tick s = .refused (.marked r) := by
  simp [tick, hf, hr]

/-- Decode and the phases after it always answer a next state: no arm of `exec` stops. -/
theorem runDecoded_next (s : State) : ∃ t, runDecoded s = .next t := by
  unfold runDecoded
  split
  · exact ⟨_, exec_eq_perform _ s⟩
  · exact ⟨_, rfl⟩

theorem runFetched_next (s : State) : ∃ t, runFetched s = .next t := by
  cases hc : s.control with
  | decode => simpa only [runFetched, hc] using runDecoded_next s
  | fetch | operandFetch _ | execute _ | resultStore _ => exact ⟨s, by simp only [runFetched, hc]⟩

theorem step_next_of_live {s : State} (h : s.Live) : ∃ t, step s = .next t := by
  obtain ⟨hfatal, hrefused⟩ := h
  cases hc : s.control with
  | fetch => simpa [step, hfatal, hrefused, hc] using runFetched_next (fetchPhase s)
  | decode => simpa [step, hfatal, hrefused, hc] using runDecoded_next s
  | operandFetch _ | execute _ | resultStore _ =>
    exact ⟨finishInstruction s, by simp [step, hfatal, hrefused, hc]⟩

/-- Settles O10: a marked state's step is its tick, which the mark stops; an unmarked one runs on, and no
instruction stops it. -/
theorem marksLeaveNoStep : Obligations.MarksLeaveNoStep := by
  refine ⟨fun s hf => ?_, fun s r hf hr => ?_, fun s h => ⟨step_next_of_live h, _, tick_of_live h⟩⟩
  · have hnot : ¬s.Live := fun ⟨hfatal, _⟩ => by simp [hf] at hfatal
    exact ⟨step_eq_tick_of_not_live hnot ▸ tick_of_fatal hf, tick_of_fatal hf⟩
  · have hnot : ¬s.Live := fun ⟨_, hrefused⟩ => by simp [hr] at hrefused
    exact ⟨step_eq_tick_of_not_live hnot ▸ tick_of_refused hf hr, tick_of_refused hf hr⟩

/-- A tick keeps a property the primitive updates keep. -/
theorem tick_keeps {P : State → Prop} (hP : StepClosed P) {s t : State} (h : P s) (ht : tick s = .next t) :
    P t := by
  unfold tick at ht
  split at ht
  · cases ht
  · split at ht
    · cases ht
    · cases ht
      exact phaseStep_keeps hP h

end Sys2Proof.Machine
end

section
/-! What nothing but reset clears or sets: the supervisor and fault flags, once set, and the configuration
(`10_state.md` R26, `60_exceptions.md` R379). -/

namespace Sys2Proof.Machine

/-- `t` has the parameters, MSR.interactive and MSR.debugging of `s`, and its supervisor and fault flags are set
where those of `s` are. -/
def State.StatusKept (s t : State) : Prop :=
  (s.msr.supervisor = true → t.msr.supervisor = true)
    ∧ (s.msr.executingFaultHandler = true → t.msr.executingFaultHandler = true)
    ∧ (s.msr.supervisorFault = true → t.msr.supervisorFault = true)
    ∧ t.cfg = s.cfg ∧ t.msr.interactive = s.msr.interactive ∧ t.msr.debugging = s.msr.debugging

theorem State.StatusKept.refl (s : State) : s.StatusKept s := ⟨id, id, id, rfl, rfl, rfl⟩

theorem State.StatusKept.waitForInput {s t : State} (h : s.StatusKept t) (dev : BitVec 5) :
    s.StatusKept (t.waitForInput dev) := by
  unfold State.waitForInput
  dsimp only
  split <;> exact h

/-- TRAP's entry sets supervisor mode. -/
theorem State.StatusKept.enterSupervisor {s t : State} (h : s.StatusKept t) :
    s.StatusKept { t with msr := { t.msr with supervisor := true } } := by
  obtain ⟨-, hhandler, hfault, hconfig⟩ := h
  exact ⟨fun _ => rfl, hhandler, hfault, hconfig⟩

/-- A dispatched fault sets two of the flags and leaves supervisorFault set; a fatal one clears only running. -/
theorem State.StatusKept.faultDispatch {s t : State} (h : s.StatusKept t) (k : FaultCode) :
    s.StatusKept (faultDispatch k t) := by
  unfold Machine.faultDispatch
  split
  · exact h
  · obtain ⟨-, -, hfault, hconfig⟩ := h
    exact ⟨fun _ => rfl, fun _ => rfl, fun hs => Bool.or_eq_true_iff.mpr (.inl (hfault hs)), hconfig⟩

theorem statusKept_stepClosed (s : State) : StepClosed s.StatusKept where
  setControl _ _ h := h
  dispatch k _ h := h.faultDispatch k
  refuse _ _ h := h
  setReg _ _ _ h := h
  setIndex _ _ _ h := h
  setFloat _ _ _ h := h
  setPc _ _ h := h
  setIar _ _ h := h
  aluStep _ _ _ h := h
  fpuStep _ _ _ h := h
  drawn _ _ h := h
  setDevice _ _ _ h := h
  wait _ d h := h.waitForInput d
  stop _ h := h
  load _ _ h := h
  store _ _ _ _ h := h
  trap _ _ _ _ h := State.StatusKept.enterSupervisor h
  setMar _ _ h := h
  fetched _ _ h := h

/-- Settles O21: every primitive update keeps the status, so every step and every tick does. -/
theorem nothingLeavesSupervisor : Obligations.NothingLeavesSupervisor := by
  rintro s t (hs | ht)
  · exact step_keeps (statusKept_stepClosed s) (State.StatusKept.refl s) hs
  · exact tick_keeps (statusKept_stepClosed s) (State.StatusKept.refl s) ht

end Sys2Proof.Machine
end

section
/-! What the memory accesses and the operand forms leave unchanged, whether they complete or raise
(`20_memory.md` R63, `40_control_unit.md` R150, R151). -/

namespace Sys2Proof.Machine

theorem readAt_sameButAccess {s s' : State} {priv : Bool} {a : Addr} {v : Word}
    (h : s.readAt priv a = .ok (v, s')) : s.SameButAccess s' := by
  unfold State.readAt at h
  split at h
  · cases h
  · cases h
    exact SameButAccess.afterLoad s a

theorem formEa_sameButAccess (indexed : Bool) (x : IndexId) (ind : Bool) (addr : BitVec 5) (c : Record)
    (s : State) : s.SameButAccess (formEa indexed x ind addr c s).state := by
  unfold formEa
  split
  · split
    · exact SameButAccess.refl s
    · next hr => exact SameButAccess.trans (readAt_sameButAccess hr) rfl
  · rfl

theorem readOperand_sameButAccess (c : Record) (s : State) : s.SameButAccess (readOperand c s).state := by
  unfold readOperand
  split
  · exact SameButAccess.refl s
  · next hr => exact readAt_sameButAccess hr

theorem fetchOperand_sameButAccess (indexed : Bool) (x : IndexId) (ind : Bool) (addr : BitVec 5) (c : Record)
    (s : State) : s.SameButAccess (fetchOperand indexed x ind addr c s).state := by
  have he := formEa_sameButAccess indexed x ind addr c s
  unfold fetchOperand PhaseResult.andThen
  split
  · next c' s' hr =>
    rw [hr] at he
    exact SameButAccess.trans he (readOperand_sameButAccess c' s')
  · exact he

end Sys2Proof.Machine
end

section
/-! Which instructions write CC and the device buffers (`10_state.md` R25, R38; `42_transfer.md` R208;
`60_exceptions.md` R384): every phase of an instruction keeps what the instruction may not write, and so does the
control unit. -/

namespace Sys2Proof.Machine

/-- The instruction runs an ALU or FPU operation, and so may write CC (`10_state.md` R25). -/
def writesCc (i : Instr) : Bool :=
  i.mnemonic ∈ [.SOB, .AMR, .SMR, .AIR, .SIR, .MLT, .DVD, .TRR, .AND, .ORR, .NOT, .SRC, .RRC, .FADD, .FSUB,
    .CNVRT]

/-- The instruction pops or pushes a device buffer (`10_state.md` R38). -/
def writesDevices (i : Instr) : Bool := i.mnemonic ∈ [.IN, .OUT]

/-- `u` has the CC and the device buffers of `s`, except what `i` may write. -/
structure CcDevicesKept (i : Instr) (s u : State) : Prop where
  cc : writesCc i = false → u.cc = s.cc
  devices : writesDevices i = false → u.devices = s.devices

namespace CcDevicesKept

variable {i : Instr} {s t u : State}

theorem of_eq (hcc : u.cc = s.cc) (hdevices : u.devices = s.devices) : CcDevicesKept i s u :=
  ⟨fun _ => hcc, fun _ => hdevices⟩

theorem of_writesCc (hi : writesCc i = true) (hdevices : u.devices = s.devices) : CcDevicesKept i s u :=
  ⟨fun hn => absurd hi (by simp [hn]), fun _ => hdevices⟩

theorem of_writesDevices (hi : writesDevices i = true) (hcc : u.cc = s.cc) : CcDevicesKept i s u :=
  ⟨fun _ => hcc, fun hn => absurd hi (by simp [hn])⟩

theorem of_sameButAccess (h : s.SameButAccess u) : CcDevicesKept i s u := of_eq (by rw [h]) (by rw [h])

theorem refl (i : Instr) (s : State) : CcDevicesKept i s s := of_eq rfl rfl

theorem trans (h : CcDevicesKept i s t) (h' : CcDevicesKept i t u) : CcDevicesKept i s u :=
  ⟨fun hn => (h'.cc hn).trans (h.cc hn), fun hn => (h'.devices hn).trans (h.devices hn)⟩

end CcDevicesKept

open CcDevicesKept (of_eq of_writesCc of_writesDevices of_sameButAccess)

theorem ccDevicesKept_formEa (i : Instr) (indexed : Bool) (x : IndexId) (ind : Bool) (addr : BitVec 5)
    (c : Record) (s : State) : CcDevicesKept i s (formEa indexed x ind addr c s).state :=
  of_sameButAccess (formEa_sameButAccess indexed x ind addr c s)

theorem ccDevicesKept_fetchOperand (i : Instr) (indexed : Bool) (x : IndexId) (ind : Bool) (addr : BitVec 5)
    (c : Record) (s : State) : CcDevicesKept i s (fetchOperand indexed x ind addr c s).state :=
  of_sameButAccess (fetchOperand_sameButAccess indexed x ind addr c s)

theorem ccDevicesKept_storeOperand (i : Instr) (v : Word) (c : Record) (s : State) :
    CcDevicesKept i s (storeOperand v c s).state := by
  cases hv : s.faultAt s.iar with
  | none => exact storeOperand_ok v c hv ▸ of_eq rfl rfl
  | some k => exact storeOperand_fault v c hv ▸ of_eq rfl rfl

theorem ccDevicesKept_transferIfTaken (i : Instr) (c : Record) (s : State) :
    CcDevicesKept i s (transferIfTaken c s).state := by
  unfold transferIfTaken
  split <;> exact of_eq rfl rfl

theorem ccDevicesKept_trapEnter (i : Instr) (w : Word) (c : Record) (s : State) :
    CcDevicesKept i s (trapEnter w c s).state := by
  unfold trapEnter State.memWriteP State.writeAt
  cases checkAccess s.cfg.wordCount (addrOf 2) true <;> exact of_eq rfl rfl

theorem aluDivide_devices (s : State) (a b : Word) : (s.aluDivide a b).devices = s.devices := by
  unfold State.aluDivide
  split <;> rfl

/-- Every phase of the body keeps what `i` may not write. -/
structure BodyKeepsCcDevices (i : Instr) (b : Body) : Prop where
  of : ∀ c s, CcDevicesKept i s (b.of c s).state
  ex : ∀ c s, CcDevicesKept i s (b.ex c s).state
  rs : ∀ c s, CcDevicesKept i s (b.rs c s).state

theorem BodyKeepsCcDevices.bodyKeeps {i : Instr} {b : Body} (hb : BodyKeepsCcDevices i b) (s : State) :
    BodyKeeps (CcDevicesKept i s) b where
  of c u h := h.trans (hb.of c u)
  ex c u h := h.trans (hb.ex c u)
  rs c u h := h.trans (hb.rs c u)

theorem floatBody_keepsCcDevices {i : Instr} (hi : writesCc i = true) (subtract : Bool) (fr : FloatId)
    (x : IndexId) (ind : Bool) (addr : BitVec 5) : BodyKeepsCcDevices i (floatBody subtract fr x ind addr) where
  of := ccDevicesKept_fetchOperand i true x ind addr
  ex c s := by
    simp only [floatBody]
    split
    · exact of_writesCc hi rfl
    · exact of_eq rfl rfl
  rs c s := by
    simp only [floatBody]
    split <;> exact of_eq rfl rfl

/-- TRAP's reads change only what accesses change, and its entry only memory, MSR and PC. -/
theorem trapBody_keepsCcDevices (i : Instr) (hi : BitVec 6) (code : BitVec 4) :
    BodyKeepsCcDevices i (trapBody hi code) where
  of _ _ := of_eq rfl rfl
  ex c s := by
    simp only [trapBody]
    split
    · split
      · exact of_eq rfl rfl
      · next hbase =>
        have hbase : CcDevicesKept i s _ := of_sameButAccess (readAt_sameButAccess hbase)
        split
        · exact hbase
        · next htarget =>
          exact (hbase.trans (of_sameButAccess (readAt_sameButAccess htarget))).trans
            (ccDevicesKept_trapEnter i _ c _)
    · exact of_eq rfl rfl
  rs _ _ := of_eq rfl rfl

/-- The phases of every instruction, grouped by the form of the body. -/
theorem bodyOf_keepsCcDevices (i : Instr) : BodyKeepsCcDevices i (bodyOf i) := by
  cases i
  case hlt | rfs | vadd | vsub =>
    exact ⟨fun _ _ => of_eq rfl rfl, fun _ _ => of_eq rfl rfl, fun _ _ => of_eq rfl rfl⟩
  case ldr | ldx =>
    exact ⟨fun _ _ => ccDevicesKept_fetchOperand _ _ _ _ _ _ _, fun _ _ => of_eq rfl rfl,
      fun _ _ => of_eq rfl rfl⟩
  case lda | jma | jsr =>
    exact ⟨ccDevicesKept_formEa _ _ _ _ _, fun _ _ => of_eq rfl rfl, fun _ _ => of_eq rfl rfl⟩
  case str | stx =>
    exact ⟨fun _ _ => ccDevicesKept_formEa _ _ _ _ _ _ _, fun _ _ => of_eq rfl rfl,
      fun _ _ => ccDevicesKept_storeOperand _ _ _ _⟩
  case jz | jne | jcc | jge =>
    exact ⟨ccDevicesKept_formEa _ _ _ _ _, fun _ _ => of_eq rfl rfl, ccDevicesKept_transferIfTaken _⟩
  case sob r x ind addr =>
    exact ⟨ccDevicesKept_formEa _ _ _ _ _, fun _ _ => of_writesCc rfl rfl,
      fun c s => CcDevicesKept.trans (t := s.setReg r s.aluResult) (of_eq rfl rfl)
        (ccDevicesKept_transferIfTaken _ c _)⟩
  case amr | smr =>
    exact ⟨ccDevicesKept_fetchOperand _ _ _ _ _, fun _ _ => of_writesCc rfl rfl, fun _ _ => of_eq rfl rfl⟩
  case mlt | trr | and | orr | not | src | rrc =>
    exact ⟨fun _ _ => of_eq rfl rfl, fun _ _ => of_writesCc rfl rfl, fun _ _ => of_eq rfl rfl⟩
  case dvd =>
    exact ⟨fun _ _ => of_eq rfl rfl, fun _ _ => of_writesCc rfl (aluDivide_devices _ _ _),
      fun _ _ => of_eq rfl rfl⟩
  case fadd fr x ind addr => exact floatBody_keepsCcDevices rfl false fr x ind addr
  case fsub fr x ind addr => exact floatBody_keepsCcDevices rfl true fr x ind addr
  case trap hi code => exact trapBody_keepsCcDevices _ hi code
  case out => exact ⟨fun _ _ => of_eq rfl rfl, fun _ _ => of_writesDevices rfl rfl, fun _ _ => of_eq rfl rfl⟩
  case air | sir =>
    refine ⟨fun _ _ => of_eq rfl rfl, fun c s => ?_, fun c s => ?_⟩
    all_goals
      simp only [bodyOf, airBody, sirBody]
      split
      · exact of_eq rfl rfl
      · exact of_writesCc rfl rfl
  case cnvrt =>
    refine ⟨ccDevicesKept_fetchOperand _ _ _ _ _, fun c s => ?_, fun c s => ?_⟩
    · simp only [bodyOf, cnvrtBody]
      split
      · exact of_writesCc rfl rfl
      · split
        · exact of_writesCc rfl rfl
        · exact of_eq rfl rfl
    · simp only [bodyOf, cnvrtBody]
      split <;> exact of_eq rfl rfl
  case ldfr =>
    refine ⟨ccDevicesKept_fetchOperand _ _ _ _ _, fun _ _ => of_eq rfl rfl, fun c s => ?_⟩
    simp only [bodyOf, ldfrBody]
    split <;> exact of_eq rfl rfl
  case stfr =>
    refine ⟨ccDevicesKept_formEa _ _ _ _ _, fun _ _ => of_eq rfl rfl, fun c s => ?_⟩
    simp only [bodyOf, stfrBody]
    split
    · exact ccDevicesKept_storeOperand _ _ c s
    · exact of_eq rfl rfl
  case inp =>
    refine ⟨fun _ _ => of_eq rfl rfl, fun c s => ?_, fun _ _ => of_eq rfl rfl⟩
    simp only [bodyOf, inpBody]
    split
    · exact of_eq rfl rfl
    · exact of_writesDevices rfl rfl
  case chk =>
    refine ⟨fun _ _ => of_eq rfl rfl, fun c s => ?_, fun _ _ => of_eq rfl rfl⟩
    simp only [bodyOf, chkBody]
    split <;> exact of_eq rfl rfl

/-- A dispatched fault writes neither CC nor a device buffer (`60_exceptions.md` R372, R384). -/
theorem ccDevicesKept_faultDispatch (i : Instr) (k : FaultCode) (s : State) :
    CcDevicesKept i s (faultDispatch k s) := by
  unfold faultDispatch
  split <;> exact of_eq rfl rfl

theorem ccDevicesKept_controlClosed (i : Instr) (s : State) : ControlClosed (CcDevicesKept i s) where
  setControl _ _ h := h.trans (of_eq rfl rfl)
  dispatch k u h := h.trans (ccDevicesKept_faultDispatch i k u)
  refuse _ _ h := h.trans (of_eq rfl rfl)

/-- An instruction keeps, on every path, what it may not write. -/
theorem ccDevicesKept_exec {i : Instr} {s t : State} (h : exec i s = .next t) : CcDevicesKept i s t :=
  exec_leads (ccDevicesKept_controlClosed i s).leads ((bodyOf_keepsCcDevices i).bodyKeeps s)
    (CcDevicesKept.refl i s) h

/-- Settles O22: an instruction that runs no ALU or FPU operation keeps CC in every phase, and fault dispatch and
refusal keep it. -/
theorem onlyAluAndFpuWriteCc : Obligations.OnlyAluAndFpuWriteCc :=
  fun _ _ _ hi h => (ccDevicesKept_exec h).cc (decide_eq_false hi)

/-- Settles O23: an instruction other than IN and OUT keeps the device buffers in every phase, and fault dispatch
and refusal keep them. -/
theorem onlyInAndOutChangeDevices : Obligations.OnlyInAndOutChangeDevices :=
  fun _ _ _ hi h => (ccDevicesKept_exec h).devices (decide_eq_false hi)

end Sys2Proof.Machine
end

section
/-! The words protected from user mode, addresses 0 to 5 (`20_memory.md` R62, R65; `60_exceptions.md` R382): a
checked write in user mode lies above them, and what writes them unchecked ends in supervisor mode. -/

namespace Sys2Proof.Machine

/-- A user-mode access that passes its check lies above the protected words. -/
theorem six_le_of_checkAccess_user {n : Nat} {a : Addr} (h : checkAccess n a false = none) : 6 ≤ a.toNat := by
  unfold checkAccess at h
  split at h
  · cases h
  · next hprotected =>
    by_contra hlow
    exact hprotected ⟨by omega, rfl⟩

/-- `t` has canonical memory, and in user mode the protected words of `s`. -/
def State.ProtectedKept (s t : State) : Prop :=
  t.mem.wf ∧ (t.msr.supervisor = false → ∀ a < 6, t.mem.read a = s.mem.read a)

theorem State.ProtectedKept.refl {s : State} (h : s.mem.wf) : s.ProtectedKept s := ⟨h, fun _ _ _ => rfl⟩

/-- In supervisor mode only the canonical form is asked for. -/
theorem State.ProtectedKept.of_supervisor {s t : State} (hwf : t.mem.wf) (h : t.msr.supervisor = true) :
    s.ProtectedKept t :=
  ⟨hwf, fun hs => absurd h (by simp [hs])⟩

/-- A write that passed its check: in user mode it lies above the protected words. -/
theorem State.ProtectedKept.storeWord {s t : State} (h : s.ProtectedKept t) {a : Addr} (v : Word)
    (ha : checkAccess t.cfg.wordCount a t.msr.supervisor = none) : s.ProtectedKept (t.storeWord a v) := by
  obtain ⟨hwf, hwords⟩ := h
  refine ⟨Memory.write_wf hwf _ v, fun hs b hb => ?_⟩
  rw [State.storeWord_msr] at hs
  rw [hs] at ha
  have hsix := six_le_of_checkAccess_user ha
  rw [State.storeWord_mem, Memory.read_write hwf, if_neg (by omega)]
  exact hwords hs b hb

theorem State.ProtectedKept.waitForInput {s t : State} (h : s.ProtectedKept t) (dev : BitVec 5) :
    s.ProtectedKept (t.waitForInput dev) := by
  unfold State.waitForInput
  dsimp only
  split <;> exact h

/-- A dispatched fault writes addresses 4 and 5 and ends in supervisor mode; a fatal one writes no memory. -/
theorem State.ProtectedKept.faultDispatch {s t : State} (h : s.ProtectedKept t) (k : FaultCode) :
    s.ProtectedKept (faultDispatch k t) := by
  unfold Machine.faultDispatch
  split
  · exact h
  · exact .of_supervisor (Memory.write_wf (Memory.write_wf h.1 _ _) _ _) rfl

theorem protectedKept_stepClosed (s : State) : StepClosed s.ProtectedKept where
  setControl _ _ h := h
  dispatch k _ h := h.faultDispatch k
  refuse _ _ h := h
  setReg _ _ _ h := h
  setIndex _ _ _ h := h
  setFloat _ _ _ h := h
  setPc _ _ h := h
  setIar _ _ h := h
  aluStep _ _ _ h := h
  fpuStep _ _ _ h := h
  drawn _ _ h := h
  setDevice _ _ _ h := h
  wait _ d h := h.waitForInput d
  stop _ h := h
  load _ _ h := h
  store _ _ v hc h := h.storeWord v hc
  trap _ v _ _ h := .of_supervisor (Memory.write_wf h.1 _ v) rfl
  setMar _ _ h := h
  fetched _ _ h := h

/-- Settles O24: every primitive update keeps the protected words or ends in supervisor mode, so every step does. -/
theorem userModeCannotWriteProtectedMemory : Obligations.UserModeCannotWriteProtectedMemory :=
  fun s _ hwf hs => (step_keeps (protectedKept_stepClosed s) (.refl hwf) hs).2

end Sys2Proof.Machine
end

section
/-! Memory accesses: the check, the cache's fill and eviction, and the write in place (`20_memory.md` R61 to R70). -/

namespace Sys2Proof.Machine

/-! The check (`20_memory.md` R62) -/

theorem checkAccess_protected {n : Nat} {a : Addr} (h : a.toNat < 6) :
    checkAccess n a false = some .protectedAccess := by
  simp [checkAccess, h]

theorem checkAccess_beyond {n : Nat} {a : Addr} {priv : Bool} (hlow : 6 ≤ a.toNat) (h : n ≤ a.toNat) :
    checkAccess n a priv = some .beyondLimit := by
  simp [checkAccess, h, Nat.not_lt.mpr hlow]

theorem checkAccess_passes {n : Nat} {a : Addr} {priv : Bool} (hlow : 6 ≤ a.toNat ∨ priv = true)
    (h : a.toNat < n) : checkAccess n a priv = none := by
  have hopen : ¬(a.toNat < 6 ∧ priv = false) := by
    rintro ⟨hlt, rfl⟩
    simp at hlow
    omega
  simp only [checkAccess, if_neg hopen, if_neg (Nat.not_le.mpr h)]

theorem addrOf_toNat (v : Word) : (addrOf v).toNat = v.toNat % 4096 := BitVec.toNat_setWidth 12 v

/-- A read whose check passes completes, whether or not the cache is coherent. -/
theorem State.memRead_of_faultAt_none {s : State} {v : Word} (h : s.faultAt v = none) :
    s.memRead v = .ok (s.cachedWord (addrOf v), s.afterLoad (addrOf v)) := by
  simp only [State.faultAt] at h
  simp only [State.memRead, State.readAt, h]

/-- Settles O18: the outcome of CheckAccess on `v mod 2^12` in each of the three ranges decides both accesses. -/
theorem accessCheckRaises : Obligations.AccessCheckRaises := by
  intro s v w hcount
  simp only [← addrOf_toNat]
  refine ⟨fun hlow hmode => ?_, fun hbeyond => ?_, fun hrange hopen => ?_⟩
  · have hfault : s.faultAt v = some .protectedAccess := by
      rw [State.faultAt, hmode]
      exact checkAccess_protected hlow
    exact ⟨State.memRead_fault hfault, State.memWrite_fault hfault⟩
  · have hfault : s.faultAt v = some .beyondLimit := checkAccess_beyond (by omega) hbeyond
    exact ⟨State.memRead_fault hfault, State.memWrite_fault hfault⟩
  · have hpass : s.faultAt v = none := checkAccess_passes hopen hrange
    exact ⟨⟨_, State.memRead_of_faultAt_none hpass⟩, _, State.memWrite_ok hpass⟩

/-! The cache -/

/-- Settles O15: reset has no valid line, a fill copies memory, and a write updates memory and line together. -/
theorem cacheIsCoherent : Obligations.CacheIsCoherent :=
  ⟨List.forall_mem_nil _, fun _ a h => State.coherent_afterLoad h a,
    fun _ a v hwf h => State.coherent_storeWord hwf h a v, fun _ a h => State.cachedWord_eq h a⟩

theorem tagOf_toNat (a : Addr) : (tagOf a).toNat = a.toNat / 4 := by
  have := addr_split a
  have := offsetOf_lt a
  omega

theorem eq_tagOf_iff {t : BitVec 10} {a : Addr} : t = tagOf a ↔ t.toNat = a.toNat / 4 := by
  rw [← tagOf_toNat, BitVec.toNat_inj]

/-- A line with the address's tag is a hit. -/
theorem exists_cacheFind_eq_some {cache : List CacheLine} {a : Addr} (h : ∃ l ∈ cache, l.tag.toNat = a.toNat / 4) :
    ∃ l, cacheFind cache (tagOf a) = some l := by
  simpa [cacheFind, ← Option.isSome_iff_exists, eq_tagOf_iff] using h

/-- No line with the address's tag is a miss. -/
theorem cacheFind_eq_none {cache : List CacheLine} {a : Addr} (h : ∀ l ∈ cache, l.tag.toNat ≠ a.toNat / 4) :
    cacheFind cache (tagOf a) = none := by
  simpa [cacheFind, eq_tagOf_iff] using h

/-- The line a miss loads holds the aligned block of memory around the address. -/
theorem lineOf_word (m : Memory) (a : Addr) {k : Nat} (hk : k < 4) :
    (lineOf m a).word k = m.read (a.toNat - a.toNat % 4 + k) := by
  have hbase : 4 * (lineOf m a).tag.toNat = a.toNat - a.toNat % 4 := by
    have : (lineOf m a).tag.toNat = a.toNat / 4 := tagOf_toNat a
    omega
  rw [← hbase]
  exact line_word ⟨rfl, rfl, rfl, rfl⟩ hk

theorem cacheInsert_eq (cache : List CacheLine) (l : CacheLine) :
    cacheInsert cache l = (if cache.length < 16 then cache else cache.tail) ++ [l] := by
  unfold cacheInsert
  by_cases h : cache.length < 16
  · rw [if_neg (by omega), if_pos h]
  · rw [if_pos (by omega), if_neg h, List.drop_one]

/-- Settles O16: a miss inserts the line of the aligned block, which WORD_COUNT, a multiple of 4, does not cut. -/
theorem readMissFillsFifo : Obligations.ReadMissFillsFifo := by
  refine fun s a => ⟨fun hmiss => ?_, fun hhit => ?_, fun ⟨_, _, hmultiple, _⟩ ha => by omega⟩
  · have hnone := cacheFind_eq_none hmiss
    refine ⟨lineOf s.mem a, tagOf_toNat a, fun k hk => lineOf_word s.mem a hk, ?_, ?_⟩
    · simp only [State.afterLoad_cache, State.cacheAfterRead, hnone, cacheInsert_eq]
    · simp only [State.cachedWord, hnone]
  · obtain ⟨l, hsome⟩ := exists_cacheFind_eq_some hhit
    simp only [State.afterLoad_cache, State.cacheAfterRead, hsome]

/-! The write in place (`20_memory.md` R64, R69) -/

theorem CacheLine.word_setWord (l : CacheLine) {j k : Nat} (hj : j < 4) (hk : k < 4) (v : Word) :
    (l.setWord j v).word k = if k = j then v else l.word k := by
  interval_cases j <;> interval_cases k <;> rfl

theorem cacheUpdate_tags (cache : List CacheLine) (a : Addr) (v : Word) :
    (cacheUpdate cache a v).map (fun l => l.tag) = cache.map (fun l => l.tag) := by
  rw [cacheUpdate, List.map_map]
  refine List.map_congr_left fun l _ => ?_
  simp only [Function.comp_apply]
  split
  · exact CacheLine.setWord_tag l _ v
  · rfl

/-- A line after a write is a line before it with the word at the written address, if it holds one, replaced. -/
theorem mem_cacheUpdate {cache : List CacheLine} {a : Addr} {v : Word} {l' : CacheLine}
    (h : l' ∈ cacheUpdate cache a v) :
    ∃ l ∈ cache, l'.tag = l.tag
      ∧ ∀ k < 4, l'.word k = if 4 * l.tag.toNat + k = a.toNat then v else l.word k := by
  obtain ⟨l, hl, rfl⟩ := List.mem_map.mp h
  have hsplit := addr_split a
  have hoffset := offsetOf_lt a
  by_cases htag : l.tag = tagOf a
  · rw [if_pos htag]
    refine ⟨l, hl, CacheLine.setWord_tag l _ v, fun k hk => ?_⟩
    rw [CacheLine.word_setWord l hoffset hk, htag, hsplit]
    simp only [Nat.add_left_cancel_iff]
  · rw [if_neg htag]
    refine ⟨l, hl, rfl, fun k hk => ?_⟩
    have hne : l.tag.toNat ≠ (tagOf a).toNat := fun he => htag (BitVec.eq_of_toNat_eq he)
    rw [if_neg (by omega)]

/-- Settles O17: memory by `Memory.read_write`, the cache line by line. -/
theorem writesUpdateInPlace : Obligations.WritesUpdateInPlace :=
  fun s a v hwf => ⟨Memory.read_write hwf a.toNat v, rfl, rfl, cacheUpdate_tags s.cache a v,
    fun _ => mem_cacheUpdate⟩

end Sys2Proof.Machine
end

section
/-! Decode and encode (`30_encoding.md` R102 to R116): the codes of the small fields, the fields of each format, the
opcode table, and the two round trips. -/

namespace Sys2Proof

/-! The codes of the two-bit fields -/

@[simp] theorem RegId.ofBits_bits (r : RegId) : RegId.ofBits r.bits = r := by cases r <;> rfl

@[simp] theorem IndexId.ofBits_bits (x : IndexId) : IndexId.ofBits x.bits = x := by cases x <;> rfl

@[simp] theorem FloatId.ofBits_bits (f : FloatId) : FloatId.ofBits f.bits = f := by cases f <;> rfl

@[simp] theorem CcSelector.ofBits_bits (c : CcSelector) : CcSelector.ofBits c.bits = c := by cases c <;> rfl

@[simp] theorem RegId.bits_ofBits : ∀ b : BitVec 2, (RegId.ofBits b).bits = b := by decide

@[simp] theorem IndexId.bits_ofBits : ∀ b : BitVec 2, (IndexId.ofBits b).bits = b := by decide

@[simp] theorem FloatId.bits_ofBits : ∀ b : BitVec 2, (FloatId.ofBits b).bits = b := by decide

@[simp] theorem CcSelector.bits_ofBits : ∀ b : BitVec 2, (CcSelector.ofBits b).bits = b := by decide

/-! RM with zero fields: RR, IO and HLT leave unused what RM has there (`30_encoding.md` R103, R105, R107) -/

theorem encodeRR_eq_encodeRM (op : BitVec 6) (rx ry : BitVec 2) :
    encodeRR op rx ry = encodeRM op rx ry false 0 :=
  (BitVec.append_assoc (x₁ := op ++ rx ++ ry) (x₂ := BitVec.ofBool false) (x₃ := (0 : BitVec 5))).symm

theorem encodeIO_eq_encodeRM (op : BitVec 6) (r : BitVec 2) (dev : BitVec 5) :
    encodeIO op r dev = encodeRM op r 0 false dev :=
  congrArg (· ++ dev) (BitVec.append_assoc (x₁ := op ++ r) (x₂ := (0 : BitVec 2)) (x₃ := BitVec.ofBool false)).symm

theorem encodeHlt_eq_encodeRM (op : BitVec 6) : encodeHlt op = encodeRM op 0 0 false 0 :=
  calc encodeHlt op
    _ = op ++ (0 : BitVec 4) ++ (0 : BitVec 6) :=
      (BitVec.append_assoc (x₁ := op) (x₂ := (0 : BitVec 4)) (x₃ := (0 : BitVec 6))).symm
    _ = encodeRR op 0 0 := congrArg (· ++ (0 : BitVec 6))
      (BitVec.append_assoc (x₁ := op) (x₂ := (0 : BitVec 2)) (x₃ := (0 : BitVec 2))).symm
    _ = encodeRM op 0 0 false 0 := encodeRR_eq_encodeRM op 0 0

/-! The fields of an RM word -/

section
variable (op : BitVec 6) (r x : BitVec 2) (ind : Bool) (addr : BitVec 5)

@[simp] theorem rField_encodeRM : rField (encodeRM op r x ind addr) = r := by
  rw [rField, encodeRM, BitVec.extractLsb'_append_eq_of_le (by decide),
    BitVec.extractLsb'_append_eq_of_le (by decide), BitVec.extractLsb'_append_eq_of_le (by decide),
    BitVec.extractLsb'_append_eq_right]

@[simp] theorem ixField_encodeRM : ixField (encodeRM op r x ind addr) = x := by
  rw [ixField, encodeRM, BitVec.extractLsb'_append_eq_of_le (by decide),
    BitVec.extractLsb'_append_eq_of_le (by decide), BitVec.extractLsb'_append_eq_right]

@[simp] theorem indirectField_encodeRM : indirectField (encodeRM op r x ind addr) = ind := by
  rw [indirectField, encodeRM, BitVec.getLsbD_append, BitVec.getLsbD_append]
  simp

@[simp] theorem addrField_encodeRM : addrField (encodeRM op r x ind addr) = addr := by
  rw [addrField, encodeRM, BitVec.extractLsb'_append_eq_right]

end

/-! The fields of an SR word -/

section
variable (op : BitVec 6) (r : BitVec 2) (al lr : Bool) (count : BitVec 4)

@[simp] theorem rField_encodeSR : rField (encodeSR op r al lr count) = r := by
  rw [rField, encodeSR, BitVec.extractLsb'_append_eq_of_le (by decide),
    BitVec.extractLsb'_append_eq_of_le (by decide), BitVec.extractLsb'_append_eq_of_le (by decide),
    BitVec.extractLsb'_append_eq_of_le (by decide), BitVec.extractLsb'_append_eq_right]

@[simp] theorem alField_encodeSR : alField (encodeSR op r al lr count) = al := by
  rw [alField, encodeSR, BitVec.getLsbD_append, BitVec.getLsbD_append, BitVec.getLsbD_append, BitVec.getLsbD_append]
  simp

@[simp] theorem lrField_encodeSR : lrField (encodeSR op r al lr count) = lr := by
  rw [lrField, encodeSR, BitVec.getLsbD_append, BitVec.getLsbD_append, BitVec.getLsbD_append]
  simp

@[simp] theorem lowNibble_encodeSR : lowNibble (encodeSR op r al lr count) = count := by
  rw [lowNibble, encodeSR, BitVec.extractLsb'_append_eq_right]

end

/-! The fields of a TRAP word -/

@[simp] theorem trapHiField_encodeTrap (op hi : BitVec 6) (code : BitVec 4) :
    trapHiField (encodeTrap op hi code) = hi := by
  rw [trapHiField, encodeTrap, BitVec.extractLsb'_append_eq_of_le (by decide), BitVec.extractLsb'_append_eq_right]

@[simp] theorem lowNibble_encodeTrap (op hi : BitVec 6) (code : BitVec 4) :
    lowNibble (encodeTrap op hi code) = code := by
  rw [lowNibble, encodeTrap, BitVec.extractLsb'_append_eq_right]

/-! A word from its fields, and masking a word as masking its fields -/

theorem ofBool_getLsbD (w : Word) (k : Nat) : BitVec.ofBool (w.getLsbD k) = w.extractLsb' k 1 := by
  ext j hj
  simp [show j = 0 by omega]

theorem encodeRM_fields (w : Word) :
    encodeRM (opcodeField w) (rField w) (ixField w) (indirectField w) (addrField w) = w := by
  unfold encodeRM opcodeField rField ixField indirectField addrField
  simp (disch := decide) only [ofBool_getLsbD, BitVec.extractLsb'_append_extractLsb'_eq_extractLsb']
  exact BitVec.extractLsb'_eq_self

theorem encodeRM_and (op op' : BitVec 6) (r r' x x' : BitVec 2) (ind ind' : Bool) (addr addr' : BitVec 5) :
    encodeRM op r x ind addr &&& encodeRM op' r' x' ind' addr'
      = encodeRM (op &&& op') (r &&& r') (x &&& x') (ind && ind') (addr &&& addr') := by
  unfold encodeRM
  simp only [← BitVec.ofBool_and_ofBool, ← BitVec.and_append]

/-- Masking each field but the opcode is masking the word by the word of the masks. -/
theorem encodeRM_masked (w : Word) (r x : BitVec 2) (ind : Bool) (addr : BitVec 5) {mask : Word}
    (hmask : encodeRM (.allOnes 6) r x ind addr = mask) :
    encodeRM (opcodeField w) (rField w &&& r) (ixField w &&& x) (indirectField w && ind) (addrField w &&& addr)
      = w &&& mask := by
  conv_rhs => rw [← hmask, ← encodeRM_fields w, encodeRM_and, BitVec.and_allOnes]

/-- The SR format leaves bits 5 and 4 unused. -/
theorem encodeSR_fields (w : Word) :
    encodeSR (opcodeField w) (rField w) (alField w) (lrField w) (lowNibble w) = w &&& 0xFFCF := by
  have hsplit : opcodeField w ++ rField w ++ w.extractLsb' 7 1 ++ w.extractLsb' 6 1 ++ w.extractLsb' 4 2
      ++ lowNibble w = w := by
    unfold opcodeField rField lowNibble
    simp (disch := decide) only [BitVec.extractLsb'_append_extractLsb'_eq_extractLsb']
    exact BitVec.extractLsb'_eq_self
  have hmask : (0xFFCF : Word) = BitVec.allOnes 6 ++ BitVec.allOnes 2 ++ BitVec.allOnes 1 ++ BitVec.allOnes 1
      ++ (0 : BitVec 2) ++ BitVec.allOnes 4 := rfl
  conv_rhs => rw [← hsplit, hmask]
  rw [BitVec.and_append, BitVec.and_append, BitVec.and_append, BitVec.and_append, BitVec.and_append,
    BitVec.and_allOnes, BitVec.and_allOnes, BitVec.and_allOnes, BitVec.and_allOnes, BitVec.and_allOnes,
    encodeSR, alField, lrField, ofBool_getLsbD, ofBool_getLsbD]
  exact congrArg (_ ++ · ++ _) BitVec.and_zero.symm

theorem encodeTrap_fields (w : Word) : encodeTrap (opcodeField w) (trapHiField w) (lowNibble w) = w := by
  unfold encodeTrap opcodeField trapHiField lowNibble
  simp (disch := decide) only [BitVec.extractLsb'_append_extractLsb'_eq_extractLsb']
  exact BitVec.extractLsb'_eq_self

/-! The opcode table (`30_encoding.md` R112, R113) -/

theorem lookup_opcode (m : Mnemonic) : defaultOpcodeMap.lookup m.opcode = some m := by cases m <;> rfl

theorem opcode_of_mem_defaultOpcodeMap : ∀ p ∈ defaultOpcodeMap, p.2.opcode = p.1 := by decide

theorem lookup_defaultOpcodeMap_eq_some_iff {op : BitVec 6} {m : Mnemonic} :
    defaultOpcodeMap.lookup op = some m ↔ m.opcode = op := by
  constructor
  · intro h
    obtain ⟨l₁, l₂, hl, -⟩ := List.lookup_eq_some_iff.mp h
    exact opcode_of_mem_defaultOpcodeMap (op, m) (by simp [hl])
  · rintro rfl
    exact lookup_opcode m

theorem decode_of_opcode {w : Word} {m : Mnemonic} (h : opcodeField w = m.opcode) :
    decode defaultOpcodeMap w = .ok (m.instr w) := by
  rw [decode, h, lookup_opcode]

theorem decode_of_no_opcode {w : Word} (h : ∀ m : Mnemonic, m.opcode ≠ opcodeField w) :
    decode defaultOpcodeMap w = .error (.illegalOpcode (opcodeField w)) := by
  have hnone : defaultOpcodeMap.lookup (opcodeField w) = none :=
    Option.eq_none_iff_forall_ne_some.mpr fun m hm => h m (lookup_defaultOpcodeMap_eq_some_iff.mp hm)
  rw [decode, hnone]

/-! Decode after encode (`30_encoding.md` R116) -/

theorem opcodeField_encode (i : Instr) : opcodeField (encode i) = i.mnemonic.opcode := by
  cases i <;>
    simp only [encode, Laws.OpcodeField.opcodeField_rm, Laws.OpcodeField.opcodeField_rr,
      Laws.OpcodeField.opcodeField_sr, Laws.OpcodeField.opcodeField_io, Laws.OpcodeField.opcodeField_trap,
      Laws.OpcodeField.opcodeField_hlt]

theorem instr_encode (i : Instr) : i.mnemonic.instr (encode i) = i := by
  cases i <;> simp [Instr.mnemonic, Mnemonic.instr, encode, encodeRR_eq_encodeRM, encodeIO_eq_encodeRM]

theorem decode_encode (i : Instr) : decode defaultOpcodeMap (encode i) = .ok i := by
  rw [decode_of_opcode (opcodeField_encode i), instr_encode]

theorem encode_injective {i j : Instr} (h : encode i = encode j) : i = j :=
  Except.ok.inj (by rw [← decode_encode i, ← decode_encode j, h])

/-- Settles O1: encode's opcode field looks its mnemonic up, and each field reads back what was written. -/
theorem decodeOfEncode : Obligations.DecodeOfEncode := decode_encode

/-! Encode after decode: the relevant bits of each format (`30_encoding.md` R111, R116) -/

@[simp] theorem mnemonic_instr (m : Mnemonic) (w : Word) : (m.instr w).mnemonic = m := by cases m <;> rfl

/-- The instruction a word carries encodes to the word with the bits its mnemonic ignores cleared. -/
theorem encode_instr {m : Mnemonic} {w : Word} (h : opcodeField w = m.opcode) :
    encode (m.instr w) = w &&& m.relevantBits := by
  unfold encode
  rw [mnemonic_instr, ← h]
  cases m with
  | LDR | STR | LDA | AMR | SMR | JZ | JNE | JCC | SOB | JGE | FADD | FSUB | VADD | VSUB | CNVRT | LDFR | STFR =>
    simpa [Mnemonic.instr, Mnemonic.relevantBits, -BitVec.reduceAllOnes]
      using encodeRM_masked w (.allOnes 2) (.allOnes 2) true (.allOnes 5) (mask := 0xFFFF) rfl
  | AIR | SIR | IN | OUT | CHK =>
    simpa [Mnemonic.instr, Mnemonic.relevantBits, encodeIO_eq_encodeRM, -BitVec.reduceAllOnes]
      using encodeRM_masked w (.allOnes 2) 0 false (.allOnes 5) (mask := 0xFF1F) rfl
  | JMA | JSR | LDX | STX =>
    simpa [Mnemonic.instr, Mnemonic.relevantBits, -BitVec.reduceAllOnes]
      using encodeRM_masked w 0 (.allOnes 2) true (.allOnes 5) (mask := 0xFCFF) rfl
  | RFS =>
    simpa [Mnemonic.instr, Mnemonic.relevantBits, -BitVec.reduceAllOnes]
      using encodeRM_masked w 0 0 false (.allOnes 5) (mask := 0xFC1F) rfl
  | MLT | DVD | TRR | AND | ORR =>
    simpa [Mnemonic.instr, Mnemonic.relevantBits, encodeRR_eq_encodeRM, -BitVec.reduceAllOnes]
      using encodeRM_masked w (.allOnes 2) (.allOnes 2) false 0 (mask := 0xFFC0) rfl
  | NOT =>
    simpa [Mnemonic.instr, Mnemonic.relevantBits, encodeRR_eq_encodeRM, -BitVec.reduceAllOnes]
      using encodeRM_masked w (.allOnes 2) 0 false 0 (mask := 0xFF00) rfl
  | HLT =>
    simpa [Mnemonic.instr, Mnemonic.relevantBits, encodeHlt_eq_encodeRM, -BitVec.reduceAllOnes]
      using encodeRM_masked w 0 0 false 0 (mask := 0xFC00) rfl
  | SRC | RRC => simp [Mnemonic.instr, Mnemonic.relevantBits, encodeSR_fields]
  | TRAP => simpa [Mnemonic.instr, Mnemonic.relevantBits] using (encodeTrap_fields w).trans BitVec.and_allOnes.symm

/-- Settles O2: the word's opcode is some mnemonic's or none's. -/
theorem encodeOfDecode : Obligations.EncodeOfDecode := by
  intro w
  by_cases h : ∃ m : Mnemonic, m.opcode = opcodeField w
  · obtain ⟨m, hm⟩ := h
    refine .inl ⟨m.instr w, decode_of_opcode hm.symm, ?_, ?_⟩
    · rw [mnemonic_instr, hm]
    · rw [mnemonic_instr, encode_instr hm.symm]
  · have hnone : ∀ m : Mnemonic, m.opcode ≠ opcodeField w := fun m hm => h ⟨m, hm⟩
    exact .inr ⟨hnone, decode_of_no_opcode hnone⟩

/-! The ignored bits (`30_encoding.md` R110, R111) -/

theorem opcodeField_and_relevantBits (m : Mnemonic) (w : Word) :
    opcodeField (w &&& m.relevantBits) = opcodeField w := by
  have hmask : opcodeField m.relevantBits = .allOnes 6 := by cases m <;> rfl
  calc opcodeField (w &&& m.relevantBits)
    _ = opcodeField w &&& opcodeField m.relevantBits := BitVec.extractLsb'_and
    _ = opcodeField w := by rw [hmask, BitVec.and_allOnes]

/-- Settles O3: both words' instructions encode to the common relevant bits, and encode is injective. -/
theorem ignoredBitsDoNotChangeDecode : Obligations.IgnoredBitsDoNotChangeDecode := by
  intro m w w' hop hagree
  have hop' : opcodeField w' = m.opcode := by
    rw [← opcodeField_and_relevantBits m w', hagree, opcodeField_and_relevantBits, hop]
  have hinstr : m.instr w' = m.instr w :=
    encode_injective (by rw [encode_instr hop', encode_instr hop, hagree])
  rw [decode_of_opcode hop', decode_of_opcode hop, hinstr]

/-! The spec's own words (`30_encoding.md` R102 to R107) -/

/-- Settles O4: decode computes on each of the ten words. -/
theorem specWordsDecode : Obligations.SpecWordsDecode := by
  unfold Obligations.SpecWordsDecode
  decide

end Sys2Proof
end

section
/-! The control unit: Instruction Fetch, Decode, and an instruction with an illegal operand id
(`40_control_unit.md` R141 to R147). -/

namespace Sys2Proof.Machine

/-! Instruction Fetch (`40_control_unit.md` R141, R142) -/

/-- The state a permitted fetch leaves when the cache is coherent. -/
def State.afterFetch (s : State) : State :=
  { s with ir := s.mem.read s.pc.toNat, mbr := s.mem.read s.pc.toNat, mar := s.pc, pc := s.pc + 1,
           cache := s.cacheAfterRead s.pc, control := .decode }

theorem State.coherent_afterFetch {s : State} (h : s.Coherent) : s.afterFetch.Coherent :=
  State.coherent_afterLoad h s.pc

theorem fetchPhase_beyond {s : State} (h : s.cfg.wordCount ≤ s.pc.toNat) : fetchPhase s = s.stopRunning := by
  rw [fetchPhase, if_pos h]

theorem fetchPhase_protected {s : State} (hpc : s.pc.toNat < s.cfg.wordCount) (hlow : s.pc.toNat < 6)
    (huser : s.msr.supervisor = false) :
    fetchPhase s = faultDispatch .protectedAccess { s with mar := s.pc } := by
  simp only [fetchPhase, if_neg (Nat.not_le.mpr hpc), State.readAt, huser, checkAccess_protected hlow]

theorem fetchPhase_passes {s : State} (h : s.Coherent) (hpc : s.pc.toNat < s.cfg.wordCount)
    (hopen : 6 ≤ s.pc.toNat ∨ s.msr.supervisor = true) : fetchPhase s = s.afterFetch := by
  have hread : s.readAt s.msr.supervisor s.pc = .ok (s.mem.read s.pc.toNat, s.afterLoad s.pc) := by
    simp only [State.readAt, checkAccess_passes hopen hpc, State.cachedWord_eq h]
  have hmbr : s.cachedWord s.pc = s.mem.read s.pc.toNat := State.cachedWord_eq h s.pc
  simp only [fetchPhase, if_neg (Nat.not_le.mpr hpc), hread, State.fetched, State.afterLoad, hmbr,
    State.afterFetch]

/-! The step and the tick from phases 1 and 2 -/

theorem tick_of_fetch {s : State} (h : s.Live) (hc : s.control = .fetch) : tick s = .next (fetchPhase s) := by
  simp only [tick_of_live h, phaseStep, hc]

theorem tick_of_decode {s : State} (h : s.Live) (hc : s.control = .decode) : tick s = .next (decodePhase s) := by
  simp only [tick_of_live h, phaseStep, hc]

theorem step_of_fetch {s : State} (h : s.Live) (hc : s.control = .fetch) :
    step s = runFetched (fetchPhase s) := by
  obtain ⟨hfatal, hrefused⟩ := h
  simp [step, hfatal, hrefused, hc]

theorem step_of_decode {s : State} (h : s.Live) (hc : s.control = .decode) : step s = runDecoded s := by
  obtain ⟨hfatal, hrefused⟩ := h
  simp [step, hfatal, hrefused, hc]

theorem step_of_fetch_passes {s : State} (h : s.Coherent) (hlive : s.Live) (hc : s.control = .fetch)
    (hpc : s.pc.toNat < s.cfg.wordCount) (hopen : 6 ≤ s.pc.toNat ∨ s.msr.supervisor = true) :
    step s = runDecoded s.afterFetch := by
  rw [step_of_fetch hlive hc, fetchPhase_passes h hpc hopen]
  rfl

theorem step_of_fetch_beyond {s : State} (hlive : s.Live) (hc : s.control = .fetch)
    (hpc : s.cfg.wordCount ≤ s.pc.toNat) : step s = .next s.stopRunning := by
  have hstays : s.stopRunning.control = .fetch := hc
  rw [step_of_fetch hlive hc, fetchPhase_beyond hpc]
  simp only [runFetched, hstays]

/-- Settles O6: the fetch passes, and Decode finds the instruction in the fetched IR. -/
theorem stepRunsDecodedInstruction : Obligations.StepRunsDecodedInstruction := by
  intro s i hcoh hlive hc hpc hopen hdecode
  have hir : decode s.afterFetch.cfg.opcodeMap s.afterFetch.ir = .ok i := hdecode
  rw [step_of_fetch_passes hcoh hlive hc hpc hopen, runDecoded, hir]
  rfl

/-- Settles O8: the stopped state is again at phase 1 with the same PC, and stopping it once more changes
nothing. -/
theorem fetchBeyondMemoryStopsTheLoop : Obligations.FetchBeyondMemoryStopsTheLoop := by
  intro s hlive hc hpc
  refine ⟨?_, step_of_fetch_beyond hlive hc hpc, step_of_fetch_beyond (s := s.stopRunning) hlive hc hpc⟩
  rw [tick_of_fetch hlive hc, fetchPhase_beyond hpc]
  rfl

/-- Settles O9: the tick of phase 1 is the fetch, protected or permitted. -/
theorem fetchReadsAndAdvances : Obligations.FetchReadsAndAdvances := by
  intro s hcoh hlive hc hpc
  rw [tick_of_fetch hlive hc]
  refine ⟨fun ⟨hlow, huser⟩ => ⟨s.pc, by rw [fetchPhase_protected hpc hlow huser]⟩, fun hnot => ?_⟩
  have hopen : 6 ≤ s.pc.toNat ∨ s.msr.supervisor = true := by
    rwa [not_and_or, Nat.not_lt, Bool.not_eq_false] at hnot
  have hnext : BitVec.ofNat 12 (s.pc.toNat + 1) = s.pc + 1 := by
    rw [BitVec.ofNat_add, BitVec.ofNat_toNat, BitVec.setWidth_eq]
    rfl
  rw [fetchPhase_passes hcoh hpc hopen, hnext]
  rfl

/-! Decode of an opcode outside the map (`40_control_unit.md` R143) -/

theorem decode_of_lookup_none {map : OpcodeMap} {w : Word} (h : map.lookup (opcodeField w) = none) :
    decode map w = .error (.illegalOpcode (opcodeField w)) := by
  simp only [decode, h]

theorem decodePhase_illegal {s : State} (h : s.cfg.opcodeMap.lookup (opcodeField s.ir) = none) :
    decodePhase s = faultDispatch .illegalOpcode s := by
  simp only [decodePhase, decode_of_lookup_none h]

theorem runDecoded_illegal {s : State} (h : s.cfg.opcodeMap.lookup (opcodeField s.ir) = none) :
    runDecoded s = .next (faultDispatch .illegalOpcode s) := by
  simp only [runDecoded, decode_of_lookup_none h]

/-- Settles O7: from phase 2 at once, from phase 1 in the state after the fetch. -/
theorem undefinedOpcodeFaults : Obligations.UndefinedOpcodeFaults := by
  refine ⟨fun s hlive hc hnone => ?_, fun s hcoh hlive hc hpc hopen hnone => ?_⟩
  · rw [tick_of_decode hlive hc, step_of_decode hlive hc, decodePhase_illegal hnone, runDecoded_illegal hnone]
    exact ⟨rfl, rfl⟩
  · refine ⟨s.afterFetch, rfl, rfl, rfl, rfl, State.coherent_afterFetch hcoh, ?_⟩
    rw [step_of_fetch_passes hcoh hlive hc hpc hopen]
    exact runDecoded_illegal (s := s.afterFetch) hnone

/-! An instruction with an illegal operand id: what is left after its Operand Fetch is nothing
(`40_control_unit.md` R147) -/

section Faulted

variable {i : Instr} {s : State} {indexed : Bool} {x : IndexId} {ind : Bool} {addr : BitVec 5}

theorem Record.faulted_of_illegal (hw : i.wellFormed = false) : (Record.new i).faulted = true := by
  rw [Record.new_faulted, hw]
  rfl

/-- Once Operand Fetch has completed, a faulted record ends the instruction where Operand Fetch left the state. -/
theorem exec_faulted_of_fetched {c : Record} {u : State} (hsame : s.SameButAccess u)
    (hperform : perform (bodyOf i) i s = runExecute (bodyOf i) c u) (hc : c.faulted = true) :
    ∃ t, s.SameButAccess t ∧ t.control = .fetch ∧ exec i s = .next t := by
  refine ⟨u.setControl .fetch, SameButAccess.trans hsame (SameButAccess.setControl u .fetch), rfl, ?_⟩
  rw [exec_eq_perform, hperform, runExecute_faulted u hc]
  rfl

/-- With nothing to do in Operand Fetch, only the phase counter moves. -/
theorem exec_faulted_no_fetch (hw : i.wellFormed = false) (hb : (bodyOf i).refusal = none)
    (hof : (bodyOf i).of (Record.new i) (s.atOperandFetch i) = .done (Record.new i) (s.atOperandFetch i)) :
    ∃ u, s.SameButControl u ∧ u.control = .fetch ∧ exec i s = .next u := by
  refine ⟨s.setControl .fetch, rfl, rfl, ?_⟩
  rw [exec_eq_perform, perform_no_fetch s hb hof, runExecute_faulted _ (Record.faulted_of_illegal hw)]
  rfl

/-- With a memory operand, its reads are all that happens: they pass, or the one that fails raises. -/
theorem exec_faulted_operand (hw : i.wellFormed = false) (hb : (bodyOf i).refusal = none)
    (hof : (bodyOf i).of (Record.new i) (s.atOperandFetch i)
      = fetchOperand indexed x ind addr (Record.new i) (s.atOperandFetch i)) (h : s.Coherent) :
    (s.operandFault indexed x ind addr = none →
      ∃ u, s.SameButAccess u ∧ u.control = .fetch ∧ exec i s = .next u)
    ∧ ∀ k, s.operandFault indexed x ind addr = some k →
      ∃ u, s.SameButAccess u ∧ u.Coherent ∧ exec i s = .next (faultDispatch k u) := by
  refine ⟨fun hnone => ?_, fun k hk => ?_⟩
  · obtain ⟨u, hsame, -, -, hperform⟩ := perform_operand_ok hb hof h hnone
    exact exec_faulted_of_fetched hsame hperform (Record.faulted_of_illegal hw)
  · obtain ⟨u, hsame, hcoh, hperform⟩ := perform_operand_fault hb hof h hk
    exact ⟨u, hsame, hcoh, hperform ▸ exec_eq_perform i s⟩

/-- With an effective address only, its indirect read is all that happens. -/
theorem exec_faulted_ea (hw : i.wellFormed = false) (hb : (bodyOf i).refusal = none)
    (hof : (bodyOf i).of (Record.new i) (s.atOperandFetch i)
      = formEa indexed x ind addr (Record.new i) (s.atOperandFetch i)) (h : s.Coherent) :
    (s.eaFault indexed x ind addr = none →
      ∃ u, s.SameButAccess u ∧ u.control = .fetch ∧ exec i s = .next u)
    ∧ ∀ k, s.eaFault indexed x ind addr = some k →
      ∃ u, s.SameButAccess u ∧ u.Coherent ∧ exec i s = .next (faultDispatch k u) := by
  refine ⟨fun hnone => ?_, fun k hk => ?_⟩
  · obtain ⟨u, hsame, -, -, hperform⟩ := perform_ea_ok hb hof h hnone
    exact exec_faulted_of_fetched hsame hperform (Record.faulted_of_illegal hw)
  · obtain ⟨u, hsame, hcoh, hperform⟩ := perform_ea_fault hb hof h hk
    exact ⟨u, hsame, hcoh, hperform ▸ exec_eq_perform i s⟩

end Faulted

/-- Settles O5: one lemma for each of the three forms of Operand Fetch. -/
theorem faultedInstructionsAreNoOps : Obligations.FaultedInstructionsAreNoOps := by
  intro s hcoh
  refine ⟨fun rx ry hw => exec_faulted_no_fetch hw rfl rfl, fun rx ry hw => exec_faulted_no_fetch hw rfl rfl,
    fun fr x ind addr hfr i hi => ?_, fun fr x ind addr hfr => exec_faulted_ea hfr rfl rfl hcoh,
    fun ind addr => exec_faulted_operand rfl rfl rfl hcoh, fun ind addr => exec_faulted_ea rfl rfl rfl hcoh⟩
  simp only [List.mem_cons, List.not_mem_nil, or_false] at hi
  rcases hi with rfl | rfl | rfl
  · exact exec_faulted_operand hfr rfl rfl hcoh
  · exact exec_faulted_operand hfr rfl rfl hcoh
  · exact exec_faulted_operand hfr rfl rfl hcoh

end Sys2Proof.Machine
end

section
/-! Loads and stores (`41_load_store.md` R180 to R186): an instruction that forms an effective address, with a memory
operand or without, then a Result Store that writes one register or one word. -/

namespace Sys2Proof.Machine

/-! An instruction from Decode to its Result Store -/

section Fetched

variable {i : Instr} {s : State} {indexed : Bool} {x : IndexId} {ind : Bool} {addr : BitVec 5}

theorem Record.unfaulted_of_legal (hw : i.wellFormed = true) : (Record.new i).faulted = false := by
  rw [Record.new_faulted, hw]
  rfl

/-- With nothing to do in Execute, an unfaulted instruction goes on to Result Store. -/
theorem exec_idle_execute {c : Record} {u : State} (hperform : perform (bodyOf i) i s = runExecute (bodyOf i) c u)
    (hc : c.faulted = false) (hex : (bodyOf i).ex = .done) :
    exec i s = .next (runStore (bodyOf i) c (u.setControl (.resultStore c))) := by
  rw [exec_eq_perform, hperform, runExecute_done hc (by rw [hex])]

/-- A failing read of Operand Fetch is dispatched. -/
theorem exec_operand_raises (hb : (bodyOf i).refusal = none)
    (hof : (bodyOf i).of (Record.new i) (s.atOperandFetch i)
      = fetchOperand indexed x ind addr (Record.new i) (s.atOperandFetch i)) (h : s.Coherent)
    (k : FaultCode) (hk : s.operandFault indexed x ind addr = some k) :
    ∃ u, s.SameButAccess u ∧ u.Coherent ∧ exec i s = .next (faultDispatch k u) := by
  obtain ⟨u, hsame, hcoh, hperform⟩ := perform_operand_fault hb hof h hk
  exact ⟨u, hsame, hcoh, hperform ▸ exec_eq_perform i s⟩

/-- A failing indirect read is dispatched. -/
theorem exec_ea_raises (hb : (bodyOf i).refusal = none)
    (hof : (bodyOf i).of (Record.new i) (s.atOperandFetch i)
      = formEa indexed x ind addr (Record.new i) (s.atOperandFetch i)) (h : s.Coherent)
    (k : FaultCode) (hk : s.eaFault indexed x ind addr = some k) :
    ∃ u, s.SameButAccess u ∧ u.Coherent ∧ exec i s = .next (faultDispatch k u) := by
  obtain ⟨u, hsame, hcoh, hperform⟩ := perform_ea_fault hb hof h hk
  exact ⟨u, hsame, hcoh, hperform ▸ exec_eq_perform i s⟩

/-- Once the reads of Operand Fetch pass, what is left is Result Store with OPND the memory operand. -/
theorem exec_operand_stores (hw : i.wellFormed = true) (hb : (bodyOf i).refusal = none)
    (hof : (bodyOf i).of (Record.new i) (s.atOperandFetch i)
      = fetchOperand indexed x ind addr (Record.new i) (s.atOperandFetch i))
    (hex : (bodyOf i).ex = .done) (h : s.Coherent) (hf : s.operandFault indexed x ind addr = none) :
    ∃ u c, s.SameButAccess u ∧ c.faulted = false ∧ c.opnd = s.wordAt (s.effectiveAddress indexed x ind addr)
      ∧ exec i s = .next (runStore (bodyOf i) c u) := by
  obtain ⟨u, hsame, -, -, hperform⟩ := perform_operand_ok hb hof h hf
  have hc := Record.unfaulted_of_legal hw
  exact ⟨u.setControl _, { Record.new i with opnd := s.wordAt _ },
    SameButAccess.trans hsame (SameButAccess.setControl u _), hc, rfl, exec_idle_execute hperform hc hex⟩

/-- Once the indirect read passes, what is left is Result Store with IAR the effective address. -/
theorem exec_ea_stores (hw : i.wellFormed = true) (hb : (bodyOf i).refusal = none)
    (hof : (bodyOf i).of (Record.new i) (s.atOperandFetch i)
      = formEa indexed x ind addr (Record.new i) (s.atOperandFetch i))
    (hex : (bodyOf i).ex = .done) (h : s.Coherent) (hf : s.eaFault indexed x ind addr = none) :
    ∃ u c, s.SameButAccess u ∧ u.Coherent ∧ u.iar = s.effectiveAddress indexed x ind addr ∧ c.faulted = false
      ∧ exec i s = .next (runStore (bodyOf i) c u) := by
  obtain ⟨u, hsame, hcoh, hiar, hperform⟩ := perform_ea_ok hb hof h hf
  have hc := Record.unfaulted_of_legal hw
  exact ⟨u.setControl (.resultStore (Record.new i)), Record.new i,
    SameButAccess.trans hsame (SameButAccess.setControl u _), hcoh, hiar, hc, exec_idle_execute hperform hc hex⟩

/-- A load: Result Store puts OPND where `put` says, which has nothing to do with the phase counter. -/
theorem exec_load {put : State → Word → State} (hw : i.wellFormed = true) (hb : (bodyOf i).refusal = none)
    (hof : (bodyOf i).of (Record.new i) (s.atOperandFetch i)
      = fetchOperand indexed x ind addr (Record.new i) (s.atOperandFetch i))
    (hex : (bodyOf i).ex = .done) (hrs : ∀ c u, (bodyOf i).rs c u = .done c (put u c.opnd))
    (hput : ∀ u v k, (put u v).setControl k = put (u.setControl k) v) (h : s.Coherent)
    (hf : s.operandFault indexed x ind addr = none) :
    ∃ u, s.SameButAccess u ∧ u.control = .fetch
      ∧ exec i s = .next (put u (s.wordAt (s.effectiveAddress indexed x ind addr))) := by
  obtain ⟨u, c, hsame, hc, hopnd, hexec⟩ := exec_operand_stores hw hb hof hex h hf
  exact ⟨u.setControl .fetch, SameButAccess.trans hsame (SameButAccess.setControl u .fetch), rfl,
    by rw [hexec, runStore_done hc (hrs c u), hput, hopnd]⟩

/-- A store: Result Store writes `v` to the word IAR reaches; the check of that write passes, or it raises, as the
indirect read may. -/
theorem exec_store {v : Word} (hw : i.wellFormed = true) (hb : (bodyOf i).refusal = none)
    (hof : (bodyOf i).of (Record.new i) (s.atOperandFetch i)
      = formEa indexed x ind addr (Record.new i) (s.atOperandFetch i))
    (hex : (bodyOf i).ex = .done)
    (hrs : ∀ c u, s.SameButAccess u → (bodyOf i).rs c u = storeOperand v c u) (hwf : s.mem.wf) (h : s.Coherent) :
    (s.eaFault indexed x ind addr = none → s.faultAt (s.effectiveAddress indexed x ind addr) = none →
      ∃ (u : State) (m : Memory), s.SameButAccess u ∧ u.control = .fetch
        ∧ (∀ a, m.read a
            = if a = (addrOf (s.effectiveAddress indexed x ind addr)).toNat then v else s.mem.read a)
        ∧ exec i s = .next { u with mem := m })
    ∧ (∀ k, s.eaFault indexed x ind addr = some k →
      ∃ u, s.SameButAccess u ∧ u.Coherent ∧ exec i s = .next (faultDispatch k u))
    ∧ (∀ k, s.eaFault indexed x ind addr = none → s.faultAt (s.effectiveAddress indexed x ind addr) = some k →
      ∃ u, s.SameButAccess u ∧ u.Coherent ∧ exec i s = .next (faultDispatch k u)) := by
  refine ⟨fun hea hpass => ?_, exec_ea_raises hb hof h, fun k hea hfail => ?_⟩
  · obtain ⟨u, c, hsame, -, hiar, hc, hexec⟩ := exec_ea_stores hw hb hof hex h hea
    have hmem : u.mem = s.mem := by rw [hsame]
    have hwrite : u.faultAt u.iar = none := by rw [hiar, hsame]; exact hpass
    have hstore := (hrs c u hsame).trans (storeOperand_ok v c hwrite)
    refine ⟨{ (u.storeWord (addrOf u.iar) v) with mem := u.mem, control := .fetch },
      u.mem.write (addrOf u.iar).toNat v, SameButAccess.trans hsame rfl, rfl, ?_, ?_⟩
    · rw [hmem, hiar]
      exact Memory.read_write hwf _ v
    · rw [hexec, runStore_done hc hstore]
      rfl
  · obtain ⟨u, c, hsame, hcoh, hiar, hc, hexec⟩ := exec_ea_stores hw hb hof hex h hea
    have hwrite : u.faultAt u.iar = some k := by rw [hiar, hsame]; exact hfail
    have hstore := (hrs c u hsame).trans (storeOperand_fault v c hwrite)
    exact ⟨u, hsame, hcoh, by rw [hexec, runStore_raise hc hstore]⟩

end Fetched

/-! Legal operand ids (`30_encoding.md` R114) -/

theorem IndexId.storable_of_ne {x : IndexId} (h : x ≠ .x0) : x.storable = true := by
  cases x with
  | x0 => exact absurd rfl h
  | x1 => rfl
  | x2 => rfl
  | x3 => rfl

theorem FloatId.legal_of_reg {fr : FloatId} {f : FloatReg} (h : fr.reg? = some f) : fr.legal = true := by
  rw [FloatId.legal, h]
  rfl

/-! The effective address in numbers (`40_control_unit.md` R150) -/

theorem State.directEa_indexed (s : State) (x : IndexId) (addr : BitVec 5) :
    s.directEa true x addr = BitVec.ofNat 16 ((s.index.get x).toNat + addr.toNat) := by
  apply BitVec.eq_of_toNat_eq
  have := addr.isLt
  simp only [State.directEa, if_true, BitVec.toNat_add, BitVec.toNat_setWidth, BitVec.toNat_ofNat]
  omega

theorem State.addrOf_directEa_indexed (s : State) (x : IndexId) (addr : BitVec 5) :
    (addrOf (s.directEa true x addr)).toNat = ((s.index.get x).toNat + addr.toNat) % 4096 := by
  rw [addrOf_toNat, State.directEa_indexed, BitVec.toNat_ofNat]
  omega

theorem State.addrOf_directEa_unindexed (s : State) (x : IndexId) (addr : BitVec 5) :
    (addrOf (s.directEa false x addr)).toNat = addr.toNat := by
  have := addr.isLt
  simp only [addrOf_toNat, State.directEa, Bool.false_eq_true, if_false, zero_add, BitVec.toNat_setWidth]
  omega

/-- At or beyond WORD_COUNT, an access the privilege allows raises Fault(3). -/
theorem checkAccess_beyond_of_open {n : Nat} {a : Addr} {priv : Bool} (hopen : 6 ≤ a.toNat ∨ priv = true)
    (h : n ≤ a.toNat) : checkAccess n a priv = some .beyondLimit := by
  rcases hopen with hlow | rfl
  · exact checkAccess_beyond hlow h
  · simp [checkAccess, h]

/-! LDR, LDX, LDFR, LDA -/

/-- Settles O26: a load into R[r]. -/
theorem ldrLoadsRegister : Obligations.LdrLoadsRegister := fun r _ _ _ _ hcoh =>
  ⟨rfl, exec_load (put := fun u v => u.setReg r v) rfl rfl rfl rfl (fun _ _ => rfl) (fun _ _ _ => rfl) hcoh,
    exec_operand_raises rfl rfl hcoh⟩

/-- Settles O27: a load into X[x]; the last clause is the load with its address in numbers. -/
theorem ldxLoadsIndexRegister : Obligations.LdxLoadsIndexRegister := by
  intro x ind addr s a hcoh hx ha
  have hload := exec_load (i := .ldx x ind addr) (put := fun u v => u.setIndex x v)
    (IndexId.storable_of_ne hx) rfl rfl rfl (fun _ _ => rfl) (fun _ _ _ => rfl) hcoh
  refine ⟨rfl, hload, exec_operand_raises rfl rfl hcoh, ?_⟩
  rintro rfl hopen hrange
  have haddr : (addrOf (s.directEa s.cfg.ldxEaIndexed x addr)).toNat = a := by
    rw [ha]
    cases s.cfg.ldxEaIndexed with
    | true => exact State.addrOf_directEa_indexed s x addr
    | false => exact State.addrOf_directEa_unindexed s x addr
  rw [← haddr] at hopen hrange ⊢
  exact hload (checkAccess_passes hopen hrange)

/-- Settles O28: a load into FR[fr]. -/
theorem ldfrLoadsFloatingRegister : Obligations.LdfrLoadsFloatingRegister := by
  intro fr x ind addr s f hcoh hf
  have hrs : ∀ c u, (bodyOf (.ldfr fr x ind addr)).rs c u = .done c (u.setFloat f c.opnd) := fun c u => by
    simp only [bodyOf, ldfrBody, hf]
  have hload := exec_load (i := .ldfr fr x ind addr) (put := fun u v => u.setFloat f v)
    (FloatId.legal_of_reg hf) rfl rfl rfl hrs (fun _ _ _ => rfl) hcoh
  exact ⟨rfl, hload, exec_operand_raises rfl rfl hcoh⟩

/-- LDA leaves the effective address in R[r] and in IAR. -/
theorem exec_lda_ok {s : State} {x : IndexId} {ind : Bool} {addr : BitVec 5} (r : RegId) (h : s.Coherent)
    (hf : s.eaFault true x ind addr = none) :
    ∃ u, s.SameButAccess u ∧ u.control = .fetch ∧ u.iar = s.effectiveAddress true x ind addr
      ∧ exec (.lda r x ind addr) s = .next (u.setReg r (s.effectiveAddress true x ind addr)) := by
  obtain ⟨u, c, hsame, -, hiar, hc, hexec⟩ := exec_ea_stores (i := .lda r x ind addr) rfl rfl rfl rfl h hf
  refine ⟨u.setControl .fetch, SameButAccess.trans hsame (SameButAccess.setControl u .fetch), rfl, hiar, ?_⟩
  rw [hexec, runStore_done hc rfl, ← hiar]
  rfl

/-- Settles O29: the two outcomes of the effective address, then both in numbers. -/
theorem ldaLoadsEffectiveAddress : Obligations.LdaLoadsEffectiveAddress := by
  intro r x ind addr s base hcoh hbase
  have hx : base = (s.index.get x).toNat := by
    rcases hbase with ⟨rfl, rfl⟩ | ⟨rfl, rfl⟩ | ⟨rfl, rfl⟩ | ⟨rfl, rfl⟩ <;> rfl
  have haddr := State.addrOf_directEa_indexed s x addr
  rw [← hx] at haddr
  have hload := exec_lda_ok (x := x) (ind := ind) (addr := addr) r hcoh
  have hraise := exec_ea_raises (i := .lda r x ind addr) (s := s) rfl rfl hcoh
  refine ⟨rfl, fun hpass => ?_, hraise, ?_, ?_, ?_⟩
  · obtain ⟨u, hsame, hcontrol, -, hexec⟩ := hload hpass
    exact ⟨u, hsame, hcontrol, hexec⟩
  · rintro rfl
    rw [hx, ← State.directEa_indexed]
    exact hload rfl
  · rintro rfl hopen
    rw [← haddr] at hopen ⊢
    exact ⟨fun hrange => hload (checkAccess_passes hopen hrange),
      fun hbeyond => hraise _ (checkAccess_beyond_of_open hopen hbeyond)⟩
  · rintro rfl hlow huser
    rw [← haddr] at hlow
    have hfault : s.faultAt (s.directEa true x addr) = some .protectedAccess := by
      rw [State.faultAt, huser]
      exact checkAccess_protected hlow
    exact hraise _ hfault

/-! STR, STX, STFR -/

/-- Settles O30: a store of R[r], which Operand Fetch leaves alone. -/
theorem strStoresRegister : Obligations.StrStoresRegister := by
  intro r x ind addr s hwf hcoh
  have hrs : ∀ c u, s.SameButAccess u → (bodyOf (.str r x ind addr)).rs c u = storeOperand (s.regs.get r) c u :=
    fun c u hsame => by rw [show s.regs = u.regs by rw [hsame]]; rfl
  exact ⟨rfl, exec_store rfl rfl rfl rfl hrs hwf hcoh⟩

/-- Settles O31: a store of X[x], which Operand Fetch leaves alone. -/
theorem stxStoresIndexRegister : Obligations.StxStoresIndexRegister := by
  intro x ind addr s hwf hcoh hx
  have hrs : ∀ c u, s.SameButAccess u → (bodyOf (.stx x ind addr)).rs c u = storeOperand (s.index.get x) c u :=
    fun c u hsame => by rw [show s.index = u.index by rw [hsame]]; rfl
  exact ⟨rfl, exec_store (IndexId.storable_of_ne hx) rfl rfl rfl hrs hwf hcoh⟩

/-- Settles O32: a store of FR[fr], which Operand Fetch leaves alone. -/
theorem stfrStoresFloatingRegister : Obligations.StfrStoresFloatingRegister := by
  intro fr x ind addr s f hwf hcoh hf
  have hrs : ∀ c u, s.SameButAccess u →
      (bodyOf (.stfr fr x ind addr)).rs c u = storeOperand (s.fregs.get f) c u := fun c u hsame => by
    rw [show s.fregs = u.fregs by rw [hsame]]
    simp only [bodyOf, stfrBody, hf]
  exact ⟨rfl, exec_store (FloatId.legal_of_reg hf) rfl rfl rfl hrs hwf hcoh⟩

end Sys2Proof.Machine
end

section
/-! Transfers of control (`42_transfer.md` R200 to R208): an instruction that forms its target in Operand Fetch
whether or not it jumps, may evaluate a condition in Execute, and writes PC in Result Store. -/

namespace Sys2Proof.Machine

/-! The conditions -/

/-- Result Store of a conditional transfer writes PC and nothing else. -/
theorem transferIfTaken_eq (c : Record) (s : State) :
    transferIfTaken c s = .done c { s with pc := if c.take then addrOf s.iar else s.pc } := by
  unfold transferIfTaken
  cases c.take <;> rfl

/-- Bit 15 clear is "not negative" in two's complement. -/
theorem not_getLsbD_fifteen (w : Word) : (!w.getLsbD 15) = decide (0 ≤ w.toInt) := by
  have hmsb : w.getLsbD 15 = decide (w.toInt < 0) := by rw [← BitVec.msb_eq_toInt, BitVec.msb_eq_getLsbD_last]
  rw [hmsb, ← decide_not, decide_eq_decide]
  exact not_lt

/-- The selector's code indexes OV, UN, DZ, EQ in this order. -/
theorem CC.selected_eq_true_iff (c : CC) (sel : CcSelector) :
    c.selected sel = true ↔ [c.ov, c.un, c.dz, c.eq][sel.bits.toNat]? = some true := by
  cases sel <;> simp [CC.selected, CcSelector.bits]

/-- DecCompare's flags by the operand alone: the result is 0 exactly when the operand is 1. -/
theorem decCompareFlags_eq (a : Word) :
    decCompareFlags a = { ov := false, un := a = 0, dz := false, eq := a = 1, gt := a ≠ 1 } := by
  have hun : a.toNat < 1 ↔ a = 0 := by rw [Nat.lt_one_iff, BitVec.toNat_eq]; rfl
  have heq : a - 1 = 0 ↔ a = 1 := sub_eq_zero
  have hgt : 0 < (a - 1).toNat ↔ a ≠ 1 := by rw [Nat.pos_iff_ne_zero, Ne, Ne, ← heq, BitVec.toNat_eq]; rfl
  simp only [decCompareFlags, CC.clear, hun, heq, hgt]

/-- A choice on the result's GT is one on the operand. -/
theorem ite_decCompareFlags_gt {α : Type} (a : Word) (p q : α) :
    (if (decCompareFlags a).gt then p else q) = if a = 1 then q else p := by
  simp only [decCompareFlags_eq, decide_eq_true_eq, ite_not]

theorem aluResult_aluDecCompare (s : State) (a : Word) : (s.aluDecCompare a).aluResult = a - 1 :=
  BitVec.setWidth_setWidth_of_le _ (by decide)

section Transfer

variable {i : Instr} {s : State} {x : IndexId} {ind : Bool} {addr : BitVec 5}

/-- Once the indirect read passes, Execute and Result Store go on from a state with IAR the effective address. -/
theorem exec_ea_completes (hw : i.wellFormed = true) (hb : (bodyOf i).refusal = none)
    (hof : (bodyOf i).of (Record.new i) (s.atOperandFetch i)
      = formEa true x ind addr (Record.new i) (s.atOperandFetch i)) (h : s.Coherent)
    (hf : s.eaFault true x ind addr = none) :
    ∃ u, s.SameButAccess u ∧ u.iar = s.effectiveAddress true x ind addr
      ∧ ∀ {c₁ c₂ : Record} {s₁ s₂ : State}, (bodyOf i).ex (Record.new i) u = .done c₁ s₁ → c₁.faulted = false →
        (bodyOf i).rs c₁ (s₁.setControl (.resultStore c₁)) = .done c₂ s₂ →
        exec i s = .next (s₂.setControl .fetch) := by
  obtain ⟨u, hsame, -, hiar, hperform⟩ := perform_ea_ok hb hof h hf
  refine ⟨u, hsame, hiar, fun hex hc hrs => ?_⟩
  rw [exec_eq_perform, hperform, runExecute_done (Record.unfaulted_of_legal hw) hex, runStore_done hc hrs]

/-- A conditional transfer whose Execute evaluates `taken` and changes nothing but the record. -/
theorem exec_conditional {taken : Bool} (hw : i.wellFormed = true) (hb : (bodyOf i).refusal = none)
    (hof : (bodyOf i).of (Record.new i) (s.atOperandFetch i)
      = formEa true x ind addr (Record.new i) (s.atOperandFetch i))
    (hex : ∀ c u, s.SameButAccess u → (bodyOf i).ex c u = .done { c with take := taken } u)
    (hrs : (bodyOf i).rs = transferIfTaken) (h : s.Coherent) :
    (s.eaFault true x ind addr = none →
      ∃ u, s.SameButAccess u ∧ u.control = .fetch
        ∧ exec i s = .next (if taken then { u with pc := addrOf (s.effectiveAddress true x ind addr) } else u))
    ∧ (∀ k, s.eaFault true x ind addr = some k →
      ∃ u, s.SameButAccess u ∧ u.Coherent ∧ exec i s = .next (faultDispatch k u)) := by
  refine ⟨fun hpass => ?_, exec_ea_raises hb hof h⟩
  obtain ⟨u, hsame, hiar, hexec⟩ := exec_ea_completes hw hb hof h hpass
  have hstore := fun c v => (congrFun₂ hrs c v).trans (transferIfTaken_eq c v)
  refine ⟨u.setControl .fetch, SameButAccess.trans hsame (SameButAccess.setControl u .fetch), rfl, ?_⟩
  rw [hexec (hex _ u hsame) (Record.unfaulted_of_legal hw) (hstore _ _), ← hiar]
  cases taken <;> rfl

end Transfer

/-- Settles O33: each condition is one on R[r], which Operand Fetch leaves alone. -/
theorem zeroAndSignJumps : Obligations.ZeroAndSignJumps := by
  intro r x ind addr s i op taken hcoh hi
  have hregs : ∀ {u : State}, s.SameButAccess u → u.regs = s.regs := fun hsame => by rw [hsame]
  rcases hi with ⟨rfl, rfl, rfl⟩ | ⟨rfl, rfl, rfl⟩ | ⟨rfl, rfl, rfl⟩
  · exact ⟨rfl, exec_conditional rfl rfl rfl (fun c u hsame => by rw [← hregs hsame]; rfl) rfl hcoh⟩
  · exact ⟨rfl, exec_conditional rfl rfl rfl (fun c u hsame => by rw [← hregs hsame]; rfl) rfl hcoh⟩
  · exact ⟨rfl, exec_conditional rfl rfl rfl
      (fun c u hsame => by rw [← hregs hsame, ← not_getLsbD_fifteen]; rfl) rfl hcoh⟩

/-- Settles O34: the condition is one on CC, which Operand Fetch leaves alone. -/
theorem jccJumpsOnSelectedFlag : Obligations.JccJumpsOnSelectedFlag := by
  intro sel x ind addr s hcoh
  have hex : ∀ c u, s.SameButAccess u →
      (bodyOf (.jcc sel x ind addr)).ex c u = .done { c with take := s.cc.selected sel } u :=
    fun c u hsame => by rw [show s.cc = u.cc by rw [hsame]]; rfl
  have hjump := exec_conditional rfl rfl rfl hex rfl hcoh
  simp only [CC.selected_eq_true_iff] at hjump
  exact ⟨rfl, hjump⟩

/-- Settles O35: Result Store takes PC from IAR. -/
theorem jmaJumps : Obligations.JmaJumps := by
  intro x ind addr s hcoh
  refine ⟨rfl, fun hpass => ?_, exec_ea_raises rfl rfl hcoh⟩
  obtain ⟨u, hsame, hiar, hexec⟩ := exec_ea_completes (i := .jma x ind addr) rfl rfl rfl hcoh hpass
  refine ⟨u.setControl .fetch, SameButAccess.trans hsame (SameButAccess.setControl u .fetch), rfl, ?_⟩
  rw [hexec rfl rfl rfl, ← hiar]
  rfl

/-- Settles O36: Result Store links PC, which Operand Fetch leaves alone, before it takes PC from IAR. -/
theorem jsrLinksInR3 : Obligations.JsrLinksInR3 := by
  intro x ind addr s hcoh
  refine ⟨rfl, fun hpass => ?_, exec_ea_raises rfl rfl hcoh⟩
  obtain ⟨u, hsame, hiar, hexec⟩ := exec_ea_completes (i := .jsr x ind addr) rfl rfl rfl hcoh hpass
  have hregs : s.regs = u.regs := by rw [hsame]
  have hpc : s.pc = u.pc := by rw [hsame]
  refine ⟨u.setControl .fetch, SameButAccess.trans hsame (SameButAccess.setControl u .fetch), rfl, ?_⟩
  rw [hexec rfl rfl rfl, ← hiar, hregs, hpc]
  rfl

/-- Settles O37: no memory access, so nothing that could raise. -/
theorem rfsReturnsThroughR3 : Obligations.RfsReturnsThroughR3 := by
  intro imm s
  refine ⟨rfl, s.setControl .fetch, rfl, rfl, ?_⟩
  rw [exec_eq_perform, perform_register rfl rfl rfl rfl rfl rfl, BitVec.ofNat_toNat, BitVec.ofNat_toNat]
  rfl

/-- Settles O38: Execute leaves the result in the ALU and its GT as the condition; Result Store writes R[r] and then
PC. -/
theorem sobDecrementsAndBranches : Obligations.SobDecrementsAndBranches := by
  intro r x ind addr s hcoh
  refine ⟨rfl, fun hpass => ?_, exec_ea_raises rfl rfl hcoh⟩
  obtain ⟨u, hsame, hiar, hexec⟩ := exec_ea_completes (i := .sob r x ind addr) rfl rfl rfl hcoh hpass
  have hregs : s.regs = u.regs := by rw [hsame]
  have hpc : s.pc = u.pc := by rw [hsame]
  refine ⟨{ u with alu := (u.aluDecCompare (u.regs.get r)).alu, control := .fetch }, ?_, rfl, ?_⟩
  · rw [hsame]
  · rw [hexec rfl rfl (transferIfTaken_eq _ _), ← hiar, hregs, hpc, ← aluResult_aluDecCompare u,
      ← decCompareFlags_eq, ← ite_decCompareFlags_gt]
    rfl

end Sys2Proof.Machine
end

section
/-! Arithmetic and logical instructions (`43_arith_logic.md` R230 to R250): Execute is one ALU operation, and Result
Store takes its results from the latches. -/

namespace Sys2Proof.Machine

/-! What an ALU operation leaves for Result Store (`43_arith_logic.md` R231 to R239) -/

/-- `t` is `s` after one ALU operation with the 16-bit result `y` and the flags `f`. -/
def State.AluLeaves (s t : State) (y : Word) (f : CC) : Prop :=
  ∃ l : AluLatches, t = s.aluStep l f ∧ l.y.setWidth 16 = y

theorem aluAdd_leaves (s : State) (a b : Word) :
    s.AluLeaves (s.aluAdd a b) (BitVec.ofNat 16 (a.toNat + b.toNat))
      { ov := s.cfg.addOverflowLimit < a.toNat + b.toNat, un := false, dz := false, eq := false, gt := false } :=
  ⟨_, rfl, BitVec.setWidth_ofNat_of_le (by decide) _⟩

theorem sub_eq_ofInt (a b : Word) : a - b = BitVec.ofInt 16 (a.toNat - b.toNat) := by
  apply BitVec.eq_of_toNat_eq
  have ha := a.isLt
  have hb := b.isLt
  rw [BitVec.toNat_sub, BitVec.toNat_ofInt]
  omega

theorem aluSubtract_leaves (s : State) (a b : Word) :
    s.AluLeaves (s.aluSubtract a b) (BitVec.ofInt 16 (a.toNat - b.toNat))
      { ov := false, un := a.toNat < b.toNat, dz := false, eq := false, gt := false } :=
  ⟨_, rfl, (BitVec.setWidth_setWidth_of_le _ (by decide)).trans (sub_eq_ofInt a b)⟩

theorem aluAnd_leaves (s : State) (a b : Word) : s.AluLeaves (s.aluAnd a b) (a &&& b) CC.clear :=
  ⟨_, rfl, BitVec.setWidth_setWidth_of_le _ (by decide)⟩

theorem aluOr_leaves (s : State) (a b : Word) : s.AluLeaves (s.aluOr a b) (a ||| b) CC.clear :=
  ⟨_, rfl, BitVec.setWidth_setWidth_of_le _ (by decide)⟩

theorem aluNot_leaves (s : State) (a : Word) : s.AluLeaves (s.aluNot a) (~~~a) CC.clear :=
  ⟨_, rfl, BitVec.setWidth_setWidth_of_le _ (by decide)⟩

/-! The halves of a 32-bit result -/

theorem high_half_ofNat (n : Nat) : (BitVec.ofNat 32 n).extractLsb' 16 16 = BitVec.ofNat 16 (n / 65536) := by
  apply BitVec.eq_of_toNat_eq
  simp only [BitVec.extractLsb'_toNat, BitVec.toNat_ofNat, Nat.shiftRight_eq_div_pow]
  omega

theorem low_half_ofNat (n : Nat) : (BitVec.ofNat 32 n).extractLsb' 0 16 = BitVec.ofNat 16 (n % 65536) := by
  apply BitVec.eq_of_toNat_eq
  simp only [BitVec.extractLsb'_toNat, BitVec.toNat_ofNat, Nat.shiftRight_zero]
  omega

/-! From Execute to the end of the instruction -/

section Result

variable {i : Instr} {s : State} {r : RegId} {y : Word} {f : CC}

/-- Execute is one ALU operation and Result Store writes its result to R[r]: nothing else changes but the latches
and the phase counter. -/
theorem runExecute_stores_result {b : Body} {c : Record} {u t : State} (hc : c.faulted = false)
    (hex : b.ex c u = .done c t) (ht : u.AluLeaves t y f) (hrs : b.rs c = storeAlu r c) :
    ∃ l, runExecute b c u = { u with alu := l, regs := u.regs.set r y, cc := f, control := .fetch } := by
  obtain ⟨l, rfl, rfl⟩ := ht
  exact ⟨l, by rw [runExecute_done hc hex, runStore_done hc (congrFun hrs _)]; rfl⟩

/-- The same for an instruction on registers alone. -/
theorem exec_register_result {t : State} (hw : i.wellFormed = true) (hb : (bodyOf i).refusal = none)
    (hof : (bodyOf i).of (Record.new i) (s.atOperandFetch i) = .done (Record.new i) (s.atOperandFetch i))
    (hex : (bodyOf i).ex (Record.new i) (s.setControl (.execute (Record.new i))) = .done (Record.new i) t)
    (ht : (s.setControl (.execute (Record.new i))).AluLeaves t y f)
    (hrs : (bodyOf i).rs (Record.new i) = storeAlu r (Record.new i)) :
    ∃ u, s.SameButAlu u ∧ u.control = .fetch ∧ exec i s = .next { u with regs := s.regs.set r y, cc := f } := by
  obtain ⟨l, hrun⟩ := runExecute_stores_result (Record.unfaulted_of_legal hw) hex ht hrs
  exact ⟨{ s with alu := l, control := .fetch }, rfl, rfl,
    by rw [exec_eq_perform, perform_no_fetch s hb hof, hrun]; rfl⟩

/-- The same for an instruction that reads a memory operand: its reads pass, or the one that fails is dispatched
before CC is written. -/
theorem exec_operand_result {indexed : Bool} {x : IndexId} {ind : Bool} {addr : BitVec 5}
    (hw : i.wellFormed = true) (hb : (bodyOf i).refusal = none)
    (hof : (bodyOf i).of (Record.new i) (s.atOperandFetch i)
      = fetchOperand indexed x ind addr (Record.new i) (s.atOperandFetch i))
    (hex : ∀ c u, s.SameButAccess u → c.opnd = s.wordAt (s.effectiveAddress indexed x ind addr) →
      ∃ t, (bodyOf i).ex c u = .done c t ∧ u.AluLeaves t y f)
    (hrs : (bodyOf i).rs = storeAlu r) (h : s.Coherent) :
    (s.operandFault indexed x ind addr = none →
      ∃ u, s.SameButAccessAlu u ∧ u.control = .fetch
        ∧ exec i s = .next { u with regs := s.regs.set r y, cc := f })
    ∧ (∀ k, s.operandFault indexed x ind addr = some k →
      ∃ u, s.SameButAccess u ∧ u.Coherent ∧ exec i s = .next (faultDispatch k u)) := by
  refine ⟨fun hpass => ?_, exec_operand_raises hb hof h⟩
  obtain ⟨u, hsame, -, -, hperform⟩ := perform_operand_ok hb hof h hpass
  obtain ⟨t, ht, hleaves⟩ := hex { Record.new i with opnd := s.wordAt _ } u hsame rfl
  have hc := Record.unfaulted_of_legal hw
  obtain ⟨l, hrun⟩ := runExecute_stores_result (c := { Record.new i with opnd := s.wordAt _ }) hc ht hleaves
    (congrFun hrs _)
  have hregs : s.regs = u.regs := by rw [hsame]
  refine ⟨{ u with alu := l, control := .fetch }, ?_, rfl, ?_⟩
  · rw [hsame]
  · rw [exec_eq_perform, hperform, hrun, hregs]

/-- Execute leaves `t`, and Result Store writes two results from its latches to the register pair at R[rx]. -/
theorem exec_pair_result {rx rl : RegId} {hi lo : AluLatches → Word} {t : State} (hl : nextReg rx = rl)
    (hw : i.wellFormed = true) (hb : (bodyOf i).refusal = none)
    (hof : (bodyOf i).of (Record.new i) (s.atOperandFetch i) = .done (Record.new i) (s.atOperandFetch i))
    (hex : (bodyOf i).ex (Record.new i) (s.setControl (.execute (Record.new i))) = .done (Record.new i) t)
    (hrs : ∀ c u, (bodyOf i).rs c u = .done c ((u.setReg rx (hi u.alu)).setReg (nextReg rx) (lo u.alu))) :
    exec i s = .next { t with regs := (t.regs.set rx (hi t.alu)).set rl (lo t.alu), control := .fetch } := by
  rw [exec_eq_perform, perform_register hb hof hw hex (Record.unfaulted_of_legal hw) (hrs _ _), hl]
  rfl

/-- With nothing to do in any phase, only the phase counter moves. -/
theorem exec_idle (hw : i.wellFormed = true) (hb : (bodyOf i).refusal = none)
    (hof : (bodyOf i).of (Record.new i) (s.atOperandFetch i) = .done (Record.new i) (s.atOperandFetch i))
    (hex : ∀ u, (bodyOf i).ex (Record.new i) u = .done (Record.new i) u)
    (hrs : ∀ u, (bodyOf i).rs (Record.new i) u = .done (Record.new i) u) :
    ∃ u, s.SameButControl u ∧ u.control = .fetch ∧ exec i s = .next u := by
  refine ⟨s.setControl .fetch, rfl, rfl, ?_⟩
  rw [exec_eq_perform, perform_register hb hof hw (hex _) (Record.unfaulted_of_legal hw) (hrs _)]
  rfl

end Result

/-- The legal pairs of MLT and DVD (`30_encoding.md` R114). -/
theorem legal_pair {rx ry rl : RegId} (hx : (rx = .r0 ∧ rl = .r1) ∨ (rx = .r2 ∧ rl = .r3))
    (hy : ry = .r0 ∨ ry = .r2) : (rx.startsPair && ry.startsPair) = true ∧ nextReg rx = rl := by
  rcases hx with ⟨rfl, rfl⟩ | ⟨rfl, rfl⟩
  · rcases hy with rfl | rfl <;> exact ⟨rfl, rfl⟩
  · rcases hy with rfl | rfl <;> exact ⟨rfl, rfl⟩

/-! AMR, SMR, AIR, SIR -/

/-- Settles O39: the addition is of R[r] and OPND, neither of which the reads of Operand Fetch change. -/
theorem amrAddsOperand : Obligations.AmrAddsOperand := by
  intro r x ind addr s hcoh
  refine ⟨rfl, exec_operand_result rfl rfl rfl (fun c u hsame hopnd => ⟨_, rfl, ?_⟩) rfl hcoh⟩
  have hregs : s.regs = u.regs := by rw [hsame]
  have hcfg : s.cfg = u.cfg := by rw [hsame]
  rw [← hopnd, hregs, hcfg]
  exact aluAdd_leaves u (u.regs.get r) c.opnd

/-- Settles O40: the subtraction is of OPND from R[r], neither of which the reads of Operand Fetch change. -/
theorem smrSubtractsOperand : Obligations.SmrSubtractsOperand := by
  intro r x ind addr s hcoh
  refine ⟨rfl, exec_operand_result rfl rfl rfl (fun c u hsame hopnd => ⟨_, rfl, ?_⟩) rfl hcoh⟩
  have hregs : s.regs = u.regs := by rw [hsame]
  rw [← hopnd, hregs]
  exact aluSubtract_leaves u (u.regs.get r) c.opnd

/-- Settles O41: a nonzero immediate is added or subtracted; with a zero one Execute and Result Store do nothing. -/
theorem airSirUseImmediate : Obligations.AirSirUseImmediate := by
  intro r imm s
  have himm : imm.toNat = (imm.setWidth 16).toNat := (BitVec.toNat_setWidth_of_le (by decide)).symm
  refine ⟨rfl, rfl, fun hne => ⟨?_, ?_⟩, fun hzero => ⟨?_, ?_⟩⟩
  · rw [himm]
    exact exec_register_result rfl rfl rfl (if_neg hne) (aluAdd_leaves _ _ _) (funext fun _ => if_neg hne)
  · rw [himm]
    exact exec_register_result rfl rfl rfl (if_neg hne) (aluSubtract_leaves _ _ _) (funext fun _ => if_neg hne)
  · exact exec_idle rfl rfl rfl (fun _ => if_pos hzero) (fun _ => if_pos hzero)
  · exact exec_idle rfl rfl rfl (fun _ => if_pos hzero) (fun _ => if_pos hzero)

/-! MLT, DVD -/

/-- Settles O42: Y holds the exact product, whose halves go to the pair. -/
theorem mltKeepsWholeProduct : Obligations.MltKeepsWholeProduct := by
  intro rx ry rl s hx hy
  obtain ⟨hw, hl⟩ := legal_pair hx hy
  have hexec := exec_pair_result (i := .mlt rx ry) (s := s) (hi := fun l => l.y.extractLsb' 16 16)
    (lo := fun l => l.y.extractLsb' 0 16) hl hw rfl rfl rfl (fun _ _ => rfl)
  refine ⟨rfl, { s with alu := (s.aluMultiply (s.regs.get rx) (s.regs.get ry)).alu, control := .fetch }, rfl, rfl, ?_⟩
  rw [hexec, ← high_half_ofNat, ← low_half_ofNat]
  rfl

theorem aluDivide_of_ne_zero (s : State) (a : Word) {b : Word} (h : b ≠ 0) :
    s.aluDivide a b = s.aluStep
      ⟨a, b, BitVec.ofNat 32 (a.toNat / b.toNat), BitVec.ofNat 32 (a.toNat % b.toNat)⟩ CC.clear := by
  rw [State.aluDivide, if_neg h, divideFlags, decide_eq_false h]
  rfl

theorem aluDivide_of_eq_zero (s : State) (a : Word) {b : Word} (h : b = 0) :
    s.aluDivide a b = (s.aluStep ⟨a, b, s.draw.setWidth 32, (s.drawn 1).draw.setWidth 32⟩
      { CC.clear with dz := true }).drawn 2 := by
  rw [State.aluDivide, if_pos h, divideFlags, decide_eq_true h]

/-- DVD ends with what Divide leaves, the low halves of Y and Y2 in the pair. -/
theorem exec_dvd {rx ry rl : RegId} {s t : State} (hl : nextReg rx = rl) (hw : (Instr.dvd rx ry).wellFormed = true)
    (ht : (s.setControl (.execute (Record.new (.dvd rx ry)))).aluDivide (s.regs.get rx) (s.regs.get ry) = t) :
    exec (.dvd rx ry) s = .next { t with
      regs := (t.regs.set rx (t.alu.y.setWidth 16)).set rl (t.alu.y2.setWidth 16), control := .fetch } :=
  exec_pair_result (hi := fun l => l.y.setWidth 16) (lo := fun l => l.y2.setWidth 16) hl hw rfl rfl
    (congrArg (PhaseResult.done _) ht) (fun _ _ => rfl)

/-- Settles O43: by a nonzero divisor Y and Y2 hold quotient and remainder, by zero two drawn words. -/
theorem dvdDividesOrSetsDz : Obligations.DvdDividesOrSetsDz := by
  intro rx ry rl s hx hy
  obtain ⟨hw, hl⟩ := legal_pair hx hy
  refine ⟨rfl, fun hne => ?_, fun hzero => ?_⟩
  · have hnarrow (n : Nat) : BitVec.ofNat 16 n = (BitVec.ofNat 32 n).setWidth 16 :=
      (BitVec.setWidth_ofNat_of_le (by decide) n).symm
    rw [hnarrow, hnarrow]
    exact ⟨{ s with alu := _, control := .fetch }, rfl, rfl, exec_dvd hl hw (aluDivide_of_ne_zero _ _ hne)⟩
  · exact ⟨{ s with alu := _, control := .fetch }, _, _, _, rfl, rfl,
      exec_dvd hl hw (aluDivide_of_eq_zero _ _ hzero)⟩

/-! TRR, AND, ORR, NOT -/

/-- Settles O44: Compare writes flags and latches only, and Result Store does nothing. -/
theorem trrComparesRegisters : Obligations.TrrComparesRegisters := by
  intro rx ry s
  refine ⟨rfl, { s with alu := (s.aluCompare (s.regs.get rx) (s.regs.get ry)).alu, control := .fetch }, rfl, rfl, ?_⟩
  rw [exec_eq_perform, perform_register rfl rfl rfl rfl rfl rfl]
  rfl

/-- Settles O45: the three results bit by bit. -/
theorem logicalOperationsClearCc : Obligations.LogicalOperationsClearCc := by
  intro rx ry s
  refine ⟨rfl, rfl, rfl, ?_, ?_, ?_⟩
  · obtain ⟨u, hsame, hcontrol, hexec⟩ :=
      exec_register_result (i := .and rx ry) (s := s) rfl rfl rfl rfl (aluAnd_leaves _ _ _) rfl
    exact ⟨u, _, hsame, hcontrol, fun j _ => BitVec.getLsbD_and, hexec⟩
  · obtain ⟨u, hsame, hcontrol, hexec⟩ :=
      exec_register_result (i := .orr rx ry) (s := s) rfl rfl rfl rfl (aluOr_leaves _ _ _) rfl
    exact ⟨u, _, hsame, hcontrol, fun j _ => BitVec.getLsbD_or, hexec⟩
  · obtain ⟨u, hsame, hcontrol, hexec⟩ :=
      exec_register_result (i := .not rx) (s := s) rfl rfl rfl rfl (aluNot_leaves _ _) rfl
    exact ⟨u, _, hsame, hcontrol, fun j hj => by simp [hj], hexec⟩

end Sys2Proof.Machine
end

section
/-! Shift and rotate instructions (`44_shift_rotate.md` R280 to R286): Execute is one shift or rotation of R[r] by the
count, and Result Store takes its result from the latches. -/

namespace Sys2Proof.Machine

theorem aluShift_leaves (s : State) (a y : Word) : s.AluLeaves (s.aluShift a y) y CC.clear :=
  ⟨_, rfl, BitVec.setWidth_setWidth_of_le _ (by decide)⟩

/-! The value of a shift (`44_shift_rotate.md` R281) -/

section Shift

variable (keep : Bool) (n : Nat) (a : Word)

theorem toNat_shiftLeft_eq_mul : (a <<< n).toNat = a.toNat * 2 ^ n % 65536 := by
  rw [BitVec.toNat_shiftLeft, Nat.shiftLeft_eq]

theorem toNat_shiftWord_logical_left : (shiftWord keep true true n a).toNat = a.toNat * 2 ^ n % 65536 :=
  toNat_shiftLeft_eq_mul n a

theorem toNat_shiftWord_logical_right : (shiftWord keep true false n a).toNat = a.toNat / 2 ^ n := by
  rw [shiftWord, BitVec.toNat_ushiftRight, Nat.shiftRight_eq_div_pow]

theorem toInt_shiftWord_arithmetic_right : (shiftWord keep false false n a).toInt = a.toInt / 2 ^ n := by
  rw [shiftWord, BitVec.toInt_sshiftRight, Int.shiftRight_eq_div_pow, Nat.cast_pow, Nat.cast_ofNat]

theorem toNat_shiftWord_arithmetic_left : (shiftWord false false true n a).toNat = a.toNat * 2 ^ n % 65536 :=
  toNat_shiftLeft_eq_mul n a

/-- Under ASL_PRESERVES_SIGN the masks 0x8000 and 0x7FFF take the sign from the operand. -/
theorem getLsbD_fifteen_shiftWord_keep : (shiftWord true false true n a).getLsbD 15 = a.getLsbD 15 := by
  simp [shiftWord]

/-- They take the 15 bits below it from the logical shift. -/
theorem setWidth_shiftWord_keep : (shiftWord true false true n a).setWidth 15 = (a <<< n).setWidth 15 := by
  have hsign : BitVec.setWidth 15 (0x8000 : Word) = 0#15 := rfl
  have hlow : BitVec.setWidth 15 (0x7FFF : Word) = .allOnes 15 := rfl
  simp only [shiftWord, if_true, BitVec.setWidth_or, BitVec.setWidth_and, hsign, hlow, BitVec.and_zero,
    BitVec.zero_or, BitVec.and_allOnes]

theorem toNat_shiftWord_keep_mod : (shiftWord true false true n a).toNat % 32768 = a.toNat * 2 ^ n % 32768 := by
  calc (shiftWord true false true n a).toNat % 32768
    _ = ((shiftWord true false true n a).setWidth 15).toNat := (BitVec.toNat_setWidth 15 _).symm
    _ = (a <<< n).toNat % 32768 := by rw [setWidth_shiftWord_keep, BitVec.toNat_setWidth]
    _ = a.toNat * 2 ^ n % 32768 := by rw [toNat_shiftLeft_eq_mul, Nat.mod_mod_of_dvd _ (by decide)]

end Shift

/-! Where a rotation takes each bit (`44_shift_rotate.md` R282, R283): both fields, of 16 bits and of 15, are rotated
by the library's rotation -/

section Rotate

variable {w : Nat} (n j : Nat)

theorem getLsbD_rotateLeft_add_mod (x : BitVec w) (hj : j < w) :
    (x.rotateLeft n).getLsbD ((j + n) % w) = x.getLsbD j := by
  have hk : n % w < w := Nat.mod_lt n (Nat.zero_lt_of_lt hj)
  rw [BitVec.getLsbD_rotateLeft, ← Nat.add_mod_mod]
  generalize n % w = k at hk
  by_cases hwrap : j + k < w
  · simp [Nat.mod_eq_of_lt hwrap, hwrap]
  · have hmod : (j + k) % w = j + k - w := by
      rw [Nat.mod_eq_sub_mod (Nat.le_of_not_lt hwrap), Nat.mod_eq_of_lt (by omega)]
    have hlow : j + k - w < k := by omega
    have hback : w - k + (j + k - w) = j := by omega
    simp [hmod, hlow, hback]

theorem getLsbD_rotateRight_eq_add_mod (x : BitVec w) (hj : j < w) :
    (x.rotateRight n).getLsbD j = x.getLsbD ((j + n) % w) := by
  have hk : n % w < w := Nat.mod_lt n (Nat.zero_lt_of_lt hj)
  rw [BitVec.getLsbD_rotateRight, ← Nat.add_mod_mod]
  generalize n % w = k at hk
  by_cases hwrap : j + k < w
  · have hlow : j < w - k := by omega
    simp [Nat.mod_eq_of_lt hwrap, hlow, Nat.add_comm k j]
  · have hmod : (j + k) % w = j - (w - k) := by
      rw [Nat.mod_eq_sub_mod (Nat.le_of_not_lt hwrap), Nat.mod_eq_of_lt (by omega)]
      omega
    have hhigh : ¬ j < w - k := by omega
    simp [hmod, hhigh, hj]

/-- Without the case of a zero count the shift by the whole width gives 0, so the case changes nothing. -/
theorem ite_rotateLeft (x : BitVec w) {k : Nat} (hk : k < w) :
    (if k = 0 then x else x <<< k ||| x >>> (w - k)) = x.rotateLeft k := by
  rw [BitVec.rotateLeft_eq_rotateLeftAux_of_lt hk, BitVec.rotateLeftAux]
  split
  · next hzero => rw [hzero, Nat.sub_zero, BitVec.shiftLeft_zero,
      BitVec.ushiftRight_eq_zero (Nat.le_refl w), BitVec.or_zero]
  · rfl

theorem ite_rotateRight (x : BitVec w) {k : Nat} (hk : k < w) :
    (if k = 0 then x else x >>> k ||| x <<< (w - k)) = x.rotateRight k := by
  rw [BitVec.rotateRight_eq_rotateRightAux_of_lt hk, BitVec.rotateRightAux]
  split
  · next hzero => rw [hzero, Nat.sub_zero, BitVec.ushiftRight_zero,
      BitVec.shiftLeft_eq_zero (Nat.le_refl w), BitVec.or_zero]
  · rfl

theorem rotateLogical_left {n : Nat} (hn : n < 16) (a : Word) : rotateLogical true n a = a.rotateLeft n :=
  ite_rotateLeft a hn

theorem rotateLogical_right {n : Nat} (hn : n < 16) (a : Word) : rotateLogical false n a = a.rotateRight n :=
  ite_rotateRight a hn

theorem rotateLow_left (l : BitVec 15) : rotateLow true (n % 15) l = l.rotateLeft n :=
  (ite_rotateLeft l (Nat.mod_lt n (by decide))).trans BitVec.rotateLeft_mod_eq_rotateLeft

theorem rotateLow_right (l : BitVec 15) : rotateLow false (n % 15) l = l.rotateRight n :=
  (ite_rotateRight l (Nat.mod_lt n (by decide))).trans BitVec.rotateRight_mod_eq_rotateRight

theorem getLsbD_fifteen_rotateArithmetic (lr : Bool) (a : Word) :
    (rotateArithmetic lr n a).getLsbD 15 = a.getLsbD 15 := by
  rw [rotateArithmetic, BitVec.getLsbD_append, if_neg (by decide), BitVec.getLsbD_ofBool]
  rfl

theorem getLsbD_rotateArithmetic_of_lt (lr : Bool) (a : Word) {j : Nat} (hj : j < 15) :
    (rotateArithmetic lr n a).getLsbD j = (rotateLow lr (n % 15) (a.setWidth 15)).getLsbD j := by
  rw [rotateArithmetic, BitVec.getLsbD_append, if_pos hj]

theorem getLsbD_rotateArithmetic_left (a : Word) (hj : j < 15) :
    (rotateArithmetic true n a).getLsbD ((j + n) % 15) = a.getLsbD j := by
  rw [getLsbD_rotateArithmetic_of_lt n true a (Nat.mod_lt _ (by decide)), rotateLow_left,
    getLsbD_rotateLeft_add_mod n j _ hj, BitVec.getLsbD_setWidth, decide_eq_true hj, Bool.true_and]

theorem getLsbD_rotateArithmetic_right (a : Word) (hj : j < 15) :
    (rotateArithmetic false n a).getLsbD j = a.getLsbD ((j + n) % 15) := by
  have hfrom : (j + n) % 15 < 15 := Nat.mod_lt _ (by decide)
  rw [getLsbD_rotateArithmetic_of_lt n false a hj, rotateLow_right, getLsbD_rotateRight_eq_add_mod n j _ hj,
    BitVec.getLsbD_setWidth, decide_eq_true hfrom, Bool.true_and]

end Rotate

/-! SRC, RRC -/

/-- Settles O46: the result is `shiftWord`'s, whose value each pair of A/L and L/R gives. -/
theorem srcShifts : Obligations.SrcShifts := by
  intro r al lr count s
  obtain ⟨u, hsame, hcontrol, hexec⟩ :=
    exec_register_result (i := .src r al lr count) (s := s) rfl rfl rfl rfl (aluShift_leaves _ _ _) rfl
  refine ⟨rfl, u, shiftWord s.cfg.aslPreservesSign al lr count.toNat (s.regs.get r), hsame, hcontrol, hexec,
    ?_, ?_, ?_, ?_, ?_⟩
  · rintro rfl rfl
    exact toNat_shiftWord_logical_left _ _ _
  · rintro rfl rfl
    exact toNat_shiftWord_logical_right _ _ _
  · rintro rfl rfl
    exact toInt_shiftWord_arithmetic_right _ _ _
  · rintro rfl rfl hkeep
    rw [hkeep]
    exact toNat_shiftWord_arithmetic_left _ _
  · rintro rfl rfl hkeep
    rw [hkeep]
    exact ⟨getLsbD_fifteen_shiftWord_keep _ _, toNat_shiftWord_keep_mod _ _⟩

/-- Settles O47: the result is `rotateWord`'s, a rotation of all 16 bits or of the low 15. -/
theorem rrcRotates : Obligations.RrcRotates := by
  intro r al lr count s
  obtain ⟨u, hsame, hcontrol, hexec⟩ :=
    exec_register_result (i := .rrc r al lr count) (s := s) rfl rfl rfl rfl (aluShift_leaves _ _ _) rfl
  refine ⟨rfl, u, rotateWord al lr count.toNat (s.regs.get r), hsame, hcontrol, hexec, ?_, ?_, ?_, ?_, ?_⟩
  · rintro rfl rfl j hj
    rw [rotateWord, if_pos rfl, rotateLogical_left count.isLt]
    exact getLsbD_rotateLeft_add_mod _ j _ hj
  · rintro rfl rfl j hj
    rw [rotateWord, if_pos rfl, rotateLogical_right count.isLt]
    exact getLsbD_rotateRight_eq_add_mod _ j _ hj
  · rintro rfl
    exact getLsbD_fifteen_rotateArithmetic _ lr _
  · rintro rfl rfl j hj
    exact getLsbD_rotateArithmetic_left _ j _ hj
  · rintro rfl rfl j hj
    exact getLsbD_rotateArithmetic_right _ j _ hj

end Sys2Proof.Machine
end

section
/-! The packed format and the FPU's operations on it (`45_floating_vector.md` R300 to R307), in integers and
rationals. -/

namespace Sys2Proof.Machine

/-! The format (`45_floating_vector.md` R300 to R302) -/

theorem floatMantissa_le (w : Word) : floatMantissa w ≤ 255 := Nat.le_of_lt_succ (w.extractLsb' 0 8).isLt

theorem floatMantissa_div_le (w : Word) (k : Nat) : floatMantissa w / k ≤ 255 :=
  (Nat.div_le_self _ _).trans (floatMantissa_le w)

section Compose

variable (sign : Bool) (e : ℤ) (m : Nat)

theorem floatSign_compose : floatSign (compose sign e m) = sign := by
  rw [floatSign, compose, BitVec.getLsbD_append, BitVec.getLsbD_append, BitVec.getLsbD_append]
  simp

theorem getLsbD_fourteen_compose : (compose sign e m).getLsbD 14 = decide (e < 0) := by
  rw [compose, BitVec.getLsbD_append, BitVec.getLsbD_append, BitVec.getLsbD_append]
  simp

theorem extractLsb'_eight_compose : (compose sign e m).extractLsb' 8 6 = BitVec.ofNat 6 e.natAbs := by
  rw [compose, BitVec.extractLsb'_append_eq_of_le (by decide), BitVec.extractLsb'_append_eq_right]

variable {e m}

theorem floatMantissa_compose (hm : m ≤ 255) : floatMantissa (compose sign e m) = m := by
  rw [floatMantissa, compose, BitVec.extractLsb'_append_eq_right, BitVec.toNat_ofNat, Nat.mod_eq_of_lt (by omega)]

theorem floatExponent_compose (hlow : -63 ≤ e) (hhigh : e ≤ 63) : floatExponent (compose sign e m) = e := by
  have habs : e.natAbs % 2 ^ 6 = e.natAbs := Nat.mod_eq_of_lt (by omega)
  rw [floatExponent, getLsbD_fourteen_compose, extractLsb'_eight_compose, BitVec.toNat_ofNat, habs]
  by_cases he : e < 0
  · rw [if_pos (decide_eq_true he), ← Int.eq_neg_natAbs_of_nonpos he.le]
  · rw [if_neg (by simpa using he), Int.natAbs_of_nonneg (not_lt.mp he)]

/-- What a composed word stands for (`45_floating_vector.md` R301, R302). -/
theorem floatValue_compose (hlow : -63 ≤ e) (hhigh : e ≤ 63) (hm : m ≤ 255) :
    floatValue (compose sign e m) = (signed sign m : ℚ) * 2 ^ e := by
  rw [floatValue, floatSign_compose, floatMantissa_compose sign hm, floatExponent_compose sign hlow hhigh]

end Compose

/-- Settles O50: each field read back by its own lemma. -/
theorem composeIsExact : Obligations.ComposeIsExact := fun sign e m hlow hhigh hm =>
  ⟨floatSign_compose sign e m, floatExponent_compose sign hlow hhigh, floatMantissa_compose sign hm,
    getLsbD_fourteen_compose sign e m⟩

/-! Sign and magnitude -/

theorem natAbs_signed (sign : Bool) (m : Nat) : (signed sign m).natAbs = m := by
  cases sign with
  | false => rfl
  | true => exact Int.natAbs_neg m

theorem signed_natAbs (v : ℤ) : signed (decide (v < 0)) v.natAbs = v := by
  by_cases hv : v < 0
  · rw [signed, if_pos (decide_eq_true hv), ← Int.eq_neg_natAbs_of_nonpos hv.le]
  · rw [signed, if_neg (by simpa using hv), Int.natAbs_of_nonneg (not_lt.mp hv)]

theorem abs_signed (sign : Bool) (m : Nat) : |(signed sign m : ℚ)| = m := by
  rw [← Int.cast_abs, Int.abs_eq_natAbs, natAbs_signed, Int.cast_natCast]

/-- Two values of one sign are as far apart as their magnitudes. -/
theorem abs_signed_sub_signed_mul (sign : Bool) (a b : Nat) (x : ℚ) :
    |(signed sign a : ℚ) - signed sign b * x| = |(a : ℚ) - b * x| := by
  cases sign with
  | false => rfl
  | true =>
    rw [abs_sub_comm]
    simp only [signed, if_true, Int.cast_neg, Int.cast_natCast]
    congr 1
    ring

/-! FAddSub (`45_floating_vector.md` R303, R304) -/

/-- Shifting the mantissa of the smaller exponent is dividing each by its distance to the larger. -/
theorem ite_shiftRight_eq_div_max (ea eb : ℤ) (m : Nat) :
    (if ea < eb then m >>> (eb - ea).toNat else m) = m / 2 ^ (max ea eb - ea).toNat := by
  by_cases h : ea < eb
  · rw [if_pos h, max_eq_right h.le, Nat.shiftRight_eq_div_pow]
  · rw [if_neg h, max_eq_left (not_lt.mp h), sub_self, Int.toNat_zero, pow_zero, Nat.div_one]

/-- Below 2^9 one shift is enough. -/
theorem fitMantissa_of_le (e : ℤ) {mag : Nat} (h : mag ≤ 511) :
    fitMantissa 8 e mag
      = if mag ≤ 255 then (e, mag, false) else if e = 63 then (e, 255, true) else (e + 1, mag / 2, false) := by
  have hshift : mag >>> 1 = mag / 2 := Nat.shiftRight_one mag
  have hfits : mag / 2 ≤ 255 := by omega
  simp only [fitMantissa, hshift, if_pos hfits]

theorem ite_sub_add_eq (subtract : Bool) (x y : ℤ) :
    (if subtract then x - y else x + y) = x + (if subtract then -1 else 1) * y := by
  cases subtract with
  | false => exact congrArg (x + ·) (one_mul y).symm
  | true => exact (sub_eq_add_neg x y).trans (congrArg (x + ·) (neg_one_mul y).symm)

theorem natAbs_ite_sub_add_le (subtract : Bool) (x y : ℤ) :
    (if subtract then x - y else x + y).natAbs ≤ x.natAbs + y.natAbs := by
  split
  · exact Int.natAbs_sub_le x y
  · exact Int.natAbs_add_le x y

/-- Settles O49: the aligned mantissas are at most 255, so the sum's magnitude is at most 510. -/
theorem floatAddSubFormula : Obligations.FloatAddSubFormula := by
  rintro subtract a b e r rfl hr
  rw [← ite_sub_add_eq] at hr
  have hbound : r.natAbs ≤ 511 := by
    have hsum := hr ▸ natAbs_ite_sub_add_le subtract _ _
    rw [natAbs_signed, natAbs_signed] at hsum
    have ha := floatMantissa_div_le a (2 ^ (max (floatExponent a) (floatExponent b) - floatExponent a).toNat)
    have hb := floatMantissa_div_le b (2 ^ (max (floatExponent a) (floatExponent b) - floatExponent b).toNat)
    omega
  simp only [fAddSub, ← max_def_lt, ite_shiftRight_eq_div_max, max_comm (floatExponent b), ← hr,
    fitMantissa_of_le _ hbound]
  split
  · rfl
  · split
    next h63 => rw [h63]
    next => rfl

/-! Rounding half up to a multiple of `2 p` -/

section Round

variable {n p q : Nat}

/-- A quotient rounded half up is at most half a step above and less than half a step below. -/
theorem mul_le_add_and_lt_of_round (hp : 0 < p) (hq : q = (n + p) / (2 * p)) :
    q * (2 * p) ≤ n + p ∧ n < q * (2 * p) + p := by
  have hdiv := Nat.div_add_mod' (n + p) (2 * p)
  have hmod := Nat.mod_lt (n + p) (Nat.mul_pos two_pos hp)
  rw [← hq] at hdiv
  omega

/-- From `255.5 p` on, such a rounding is off by less than one part in 256: up to `256 p` the quotient is 128. -/
theorem abs_sub_round_mul_lt (hp : 0 < p) (hn : 511 * p ≤ 2 * n) (hq : q = (n + p) / (2 * p)) :
    |(n : ℤ) - (q * (2 * p) : Nat)| * 256 < n := by
  by_cases hsmall : n ≤ 256 * p
  · have hclose : |(n : ℤ) - (q * (2 * p) : Nat)| ≤ p / 2 := by
      have : q = 128 := hq ▸ Nat.div_eq_of_lt_le (by omega) (by omega)
      rw [this, abs_le]
      omega
    omega
  · have hclose : |(n : ℤ) - (q * (2 * p) : Nat)| ≤ p := by
      obtain ⟨hhigh, hlow⟩ := mul_le_add_and_lt_of_round hp hq
      rw [abs_le]
      omega
    omega

/-- In fractions, such a rounding is to the nearest integer, and up from the middle. -/
theorem round_sub_div_mem_Ioc (hp : 0 < p) (hq : q = (n + p) / (2 * p)) :
    (q : ℚ) - n * (2 * p : ℚ)⁻¹ ∈ Set.Ioc (-(1 / 2) : ℚ) (1 / 2) := by
  obtain ⟨hhigh, hlow⟩ := mul_le_add_and_lt_of_round hp hq
  have hpos : (0 : ℚ) < 2 * p := by positivity
  have hhigh' : (q : ℚ) * (2 * p) ≤ n + p := by exact_mod_cast hhigh
  have hlow' : (n : ℚ) < q * (2 * p) + p := by exact_mod_cast hlow
  rw [← div_eq_mul_inv, Set.mem_Ioc, sub_le_iff_le_add, lt_sub_iff_add_lt, ← sub_le_iff_le_add', le_div_iff₀ hpos,
    ← lt_sub_iff_add_lt', div_lt_iff₀ hpos]
  constructor <;> linarith

end Round

/-! FloatToFixed (`45_floating_vector.md` R306) -/

/-- The magnitude FloatToFixed gives, one form for each sign of the exponent. -/
def fixedMagnitude (w : Word) : Nat :=
  if 0 ≤ floatExponent w then floatMantissa w <<< (floatExponent w).toNat
  else (floatMantissa w + 2 ^ ((-floatExponent w).toNat - 1)) >>> (-floatExponent w).toNat

theorem floatToFixed_eq (w : Word) :
    floatToFixed w = (BitVec.ofInt 16 (signed (floatSign w) (fixedMagnitude w)), decide
      ¬(-32768 ≤ signed (floatSign w) (fixedMagnitude w) ∧ signed (floatSign w) (fixedMagnitude w) ≤ 32767)) :=
  rfl

/-- It is the nearest integer to the magnitude of the word's value, the upper one from the middle. -/
theorem fixedMagnitude_sub_mem_Ioc (w : Word) :
    (fixedMagnitude w : ℚ) - floatMantissa w * 2 ^ floatExponent w ∈ Set.Ioc (-(1 / 2) : ℚ) (1 / 2) := by
  rw [fixedMagnitude]
  split
  next hpos =>
    obtain ⟨k, hk⟩ := Int.eq_ofNat_of_zero_le hpos
    rw [hk, Int.toNat_natCast, Nat.shiftLeft_eq, zpow_natCast]
    push_cast
    rw [sub_self]
    norm_num
  next hneg =>
    obtain ⟨k, hk⟩ : ∃ k : Nat, floatExponent w = -((k + 1 : Nat) : ℤ) := ⟨(-floatExponent w).toNat - 1, by omega⟩
    rw [hk, neg_neg, Int.toNat_natCast, Nat.add_sub_cancel, Nat.shiftRight_eq_div_pow, zpow_neg, zpow_natCast,
      pow_succ', pow_succ']
    exact_mod_cast round_sub_div_mem_Ioc (p := 2 ^ k) (by positivity) rfl

/-- Settles O51: v is the rounded magnitude with the word's sign; of one sign, distances are those of magnitudes. -/
theorem floatToFixedRounds : Obligations.FloatToFixedRounds := by
  intro w
  obtain ⟨hlow, hhigh⟩ := fixedMagnitude_sub_mem_Ioc w
  refine ⟨signed (floatSign w) (fixedMagnitude w), ?_⟩
  rw [floatValue, abs_signed_sub_signed_mul, floatToFixed_eq]
  refine ⟨abs_le.mpr ⟨hlow.le, hhigh⟩, fun hhalf => ?_, rfl, decide_eq_true_iff⟩
  rw [abs_mul, abs_signed, abs_signed, abs_of_pos (by positivity), ← sub_nonneg]
  by_contra! hneg
  rw [abs_of_neg hneg] at hhalf
  linarith

/-! FixedToFloat (`45_floating_vector.md` R307) -/

/-- |v| / 2^E rounded half up, the mantissa FixedToFloat tries with exponent E. -/
def roundedMantissa (mag : Nat) : Nat → Nat
  | 0 => mag
  | k + 1 => (mag + 2 ^ k) / 2 ^ (k + 1)

theorem roundedMantissa_zero (mag : Nat) : roundedMantissa mag 0 = mag := rfl

theorem roundedMantissa_succ (mag k : Nat) : roundedMantissa mag (k + 1) = (mag + 2 ^ k) / 2 ^ (k + 1) := rfl

/-- Given that the quotient fits within `fuel` more exponents, the loop ends at the first that fits. -/
theorem fitFixed_least (mag fuel e : Nat) (hfits : roundedMantissa mag (e + fuel) ≤ 255) :
    ∃ e', e ≤ e' ∧ e' ≤ e + fuel ∧ fitFixed mag fuel e (roundedMantissa mag e) = (e', roundedMantissa mag e')
      ∧ roundedMantissa mag e' ≤ 255 ∧ ∀ k, e ≤ k → k < e' → 255 < roundedMantissa mag k := by
  induction fuel generalizing e with
  | zero => exact ⟨e, le_rfl, le_rfl, rfl, hfits, by omega⟩
  | succ fuel ih =>
    by_cases hq : roundedMantissa mag e ≤ 255
    · exact ⟨e, le_rfl, by omega, by rw [fitFixed, if_pos hq], hq, by omega⟩
    · obtain ⟨e', hle, hend, hfit, hq', hleast⟩ := ih (e + 1) (by rwa [Nat.add_right_comm])
      refine ⟨e', by omega, by omega, ?_, hq', fun k hk hlt => ?_⟩
      · rw [fitFixed, if_neg hq, Nat.shiftRight_eq_div_pow]
        exact hfit
      · rcases hk.eq_or_lt with rfl | hk
        · exact not_le.mp hq
        · exact hleast k hk hlt

theorem natAbs_toInt_le (w : Word) : w.toInt.natAbs ≤ 32768 := by
  have := w.toInt_lt
  have := w.le_toInt
  omega

theorem roundedMantissa_sixteen_le {mag : Nat} (h : mag ≤ 32768) : roundedMantissa mag 16 ≤ 255 := by
  rw [roundedMantissa_succ]
  omega

/-- The result of FixedToFloat, with the least exponent whose mantissa fits. -/
theorem exists_fixedToFloat_eq_compose (w : Word) :
    ∃ e : Nat, e ≤ 16 ∧ fixedToFloat w = compose (decide (w.toInt < 0)) e (roundedMantissa w.toInt.natAbs e)
      ∧ roundedMantissa w.toInt.natAbs e ≤ 255 ∧ ∀ k < e, 255 < roundedMantissa w.toInt.natAbs k := by
  obtain ⟨e, -, hend, hfit, hq, hleast⟩ :=
    fitFixed_least w.toInt.natAbs 16 0 (roundedMantissa_sixteen_le (natAbs_toInt_le w))
  refine ⟨e, by omega, ?_, hq, fun k hk => hleast k (Nat.zero_le k) hk⟩
  rw [roundedMantissa_zero] at hfit
  simp only [fixedToFloat, hfit]

theorem mul_le_of_roundedMantissa_gt {mag k : Nat} (h : 255 < roundedMantissa mag k) : 511 * 2 ^ k ≤ 2 * mag := by
  cases k with
  | zero => rw [roundedMantissa_zero] at h; omega
  | succ k =>
    rw [roundedMantissa_succ, Nat.lt_iff_add_one_le, Nat.le_div_iff_mul_le (by positivity)] at h
    omega

/-- A magnitude beyond 255 is off by less than one part in 256 at the least exponent that fits. -/
theorem abs_sub_roundedMantissa_lt {mag e : Nat} (hbig : 255 < mag) (hq : roundedMantissa mag e ≤ 255)
    (hleast : ∀ k < e, 255 < roundedMantissa mag k) :
    |(mag : ℤ) - (roundedMantissa mag e * 2 ^ e : Nat)| * 256 < mag := by
  cases e with
  | zero => exact absurd hq (not_le.mpr hbig)
  | succ k =>
    rw [pow_succ']
    exact abs_sub_round_mul_lt (by positivity) (mul_le_of_roundedMantissa_gt (hleast k k.lt_succ_self))
      (by rw [roundedMantissa_succ, pow_succ'])

/-- The composed value is as far from v as the mantissa's magnitude is from |v|. -/
theorem abs_floatValue_compose_sub {v : ℤ} {e q : Nat} (he : e ≤ 63) (hq : q ≤ 255) :
    |floatValue (compose (decide (v < 0)) e q) - v| = (|(v.natAbs : ℤ) - (q * 2 ^ e : Nat)| : ℤ) := by
  have hv : (v : ℚ) = signed (decide (v < 0)) v.natAbs := by rw [signed_natAbs]
  rw [floatValue_compose _ (by omega) (by omega) hq, abs_sub_comm, hv, abs_signed_sub_signed_mul, zpow_natCast,
    Int.cast_abs, Int.cast_sub, Int.cast_natCast, Int.cast_natCast, Nat.cast_mul, Nat.cast_pow, Nat.cast_ofNat]

/-- Settles O52: at exponent 0 nothing is rounded, and beyond 255 the least exponent that fits keeps the value close. -/
theorem fixedToFloatIsClose : Obligations.FixedToFloatIsClose := by
  refine ⟨by decide, fun w => ?_⟩
  obtain ⟨e, he, hfit, hq, hleast⟩ := exists_fixedToFloat_eq_compose w
  have hdist := abs_floatValue_compose_sub (v := w.toInt) (e := e) (by omega) hq
  rw [← hfit] at hdist
  refine ⟨⟨e, roundedMantissa w.toInt.natAbs, rfl, fun _ => rfl, hq, hleast, hfit⟩,
    fun hsmall => ?_, fun hbig => ?_⟩
  · have hzero : e = 0 := by
      by_contra hne
      exact absurd (hleast 0 (Nat.pos_of_ne_zero hne)) (not_lt.mpr hsmall)
    subst hzero
    rw [roundedMantissa_zero, pow_zero, mul_one, sub_self, abs_zero, Int.cast_zero, abs_eq_zero, sub_eq_zero] at hdist
    exact hdist
  · rw [hdist, ← Int.cast_abs, Int.abs_eq_natAbs w.toInt]
    exact_mod_cast abs_sub_roundedMantissa_lt hbig hq hleast

end Sys2Proof.Machine
end

section
/-! Floating-point and vector instructions (`45_floating_vector.md` R308 to R312): Execute is one FPU operation, and
Result Store takes its result from the latches or the record. -/

namespace Sys2Proof.Machine

section Operand

variable {i : Instr} {s : State} {indexed : Bool} {x : IndexId} {ind : Bool} {addr : BitVec 5}

/-- Once the reads of Operand Fetch pass, what is left is Execute with OPND the memory operand. -/
theorem exec_operand_executes (hw : i.wellFormed = true) (hb : (bodyOf i).refusal = none)
    (hof : (bodyOf i).of (Record.new i) (s.atOperandFetch i)
      = fetchOperand indexed x ind addr (Record.new i) (s.atOperandFetch i)) (h : s.Coherent)
    (hpass : s.operandFault indexed x ind addr = none) :
    ∃ u c, s.SameButAccess u ∧ c.faulted = false ∧ c.opnd = s.wordAt (s.effectiveAddress indexed x ind addr)
      ∧ exec i s = .next (runExecute (bodyOf i) c u) := by
  obtain ⟨u, hsame, -, -, hperform⟩ := perform_operand_ok hb hof h hpass
  exact ⟨u, { Record.new i with opnd := s.wordAt _ }, hsame, Record.unfaulted_of_legal hw, rfl,
    hperform ▸ exec_eq_perform i s⟩

/-- What an FPU operation of Execute adds to the components Operand Fetch changes. -/
theorem SameButAccessFpu.of_access {s u : State} (h : s.SameButAccess u) (l : FpuLatches) (k : Control) :
    s.SameButAccessFpu { u with fpu := l, control := k } := by
  rw [h]

end Operand

/-! FADD, FSUB -/

section Float

variable {fr : FloatId} {f : FloatReg} {subtract : Bool} {x : IndexId} {ind : Bool} {addr : BitVec 5}

/-- From Execute on: FAddSub of FR[f] and OPND, written back to FR[f]. -/
theorem runExecute_floatBody {c : Record} {u : State} (hf : fr.reg? = some f) (hc : c.faulted = false) :
    runExecute (floatBody subtract fr x ind addr) c u
      = ((u.fpuAddSub subtract (u.fregs.get f) c.opnd).setFloat f
          (fAddSub subtract (u.fregs.get f) c.opnd).1).setControl .fetch := by
  have hex : (floatBody subtract fr x ind addr).ex c u = .done c (u.fpuAddSub subtract (u.fregs.get f) c.opnd) := by
    simp only [floatBody, hf]
  have hrs (t : State) : (floatBody subtract fr x ind addr).rs c t = .done c (t.setFloat f t.fpu.y) := by
    simp only [floatBody, hf]
  rw [runExecute_done hc hex, runStore_done hc (hrs _)]
  rfl

/-- FADD and FSUB, by their common phases. -/
theorem exec_float {i : Instr} {s : State} (hbody : bodyOf i = floatBody subtract fr x ind addr)
    (hw : i.wellFormed = true) (hf : fr.reg? = some f) (h : s.Coherent)
    (hpass : s.operandFault true x ind addr = none) :
    ∃ u, s.SameButAccessFpu u ∧ u.control = .fetch
      ∧ exec i s
        = .next { u with
            fregs := s.fregs.set f (fAddSub subtract (s.fregs.get f) (s.wordAt (s.effectiveAddress true x ind addr))).1
            cc := overflowFlags
              (fAddSub subtract (s.fregs.get f) (s.wordAt (s.effectiveAddress true x ind addr))).2 } := by
  obtain ⟨u, c, hsame, hc, hopnd, hexec⟩ :=
    exec_operand_executes hw (by rw [hbody]; rfl) (by rw [hbody]; rfl) h hpass
  refine ⟨_, SameButAccessFpu.of_access hsame (u.fpuAddSub subtract (u.fregs.get f) c.opnd).fpu .fetch, rfl, ?_⟩
  rw [hexec, hbody, runExecute_floatBody hf hc, hopnd, show s.fregs = u.fregs by rw [hsame]]
  rfl

end Float

/-- Settles O48: FADD and FSUB are one form, with `subtract` false and true. -/
theorem faddFsubWriteFloatingRegister : Obligations.FaddFsubWriteFloatingRegister := by
  intro fr x ind addr s f hcoh hf
  refine ⟨rfl, rfl, fun i subtract hi => ?_⟩
  rcases hi with ⟨rfl, rfl⟩ | ⟨rfl, rfl⟩
  · exact ⟨exec_float rfl (FloatId.legal_of_reg hf) hf hcoh, exec_operand_raises rfl rfl hcoh⟩
  · exact ⟨exec_float rfl (FloatId.legal_of_reg hf) hf hcoh, exec_operand_raises rfl rfl hcoh⟩

/-! CNVRT -/

section Convert

variable {r : RegId} {x : IndexId} {ind : Bool} {addr : BitVec 5} {c : Record} {u : State}

theorem runExecute_cnvrt_toFixed (hc : c.faulted = false) (hsel : u.regs.get r = 0) :
    runExecute (cnvrtBody r x ind addr) c u
      = ((u.fpuToFixed c.opnd).setReg r (floatToFixed c.opnd).1).setControl .fetch := by
  rw [runExecute_done hc (if_pos hsel),
    runStore_done (c := { c with selector := u.regs.get r, value := (floatToFixed c.opnd).1 }) hc (if_pos hsel)]
  rfl

theorem runExecute_cnvrt_toFloat (hc : c.faulted = false) (hsel : u.regs.get r = 1) :
    runExecute (cnvrtBody r x ind addr) c u
      = ((u.fpuToFloat c.opnd).setFloat .fr0 (fixedToFloat c.opnd)).setControl .fetch := by
  have hne : ¬u.regs.get r = 0 := by rw [hsel]; decide
  rw [runExecute_done hc ((if_neg hne).trans (if_pos hsel)),
    runStore_done (c := { c with selector := u.regs.get r, value := fixedToFloat c.opnd }) hc (if_neg hne)]
  rfl

theorem runExecute_cnvrt_refused (hc : c.faulted = false) (hne0 : u.regs.get r ≠ 0) (hne1 : u.regs.get r ≠ 1) :
    runExecute (cnvrtBody r x ind addr) c u = u.refuse .convertSelector := by
  have hex : (cnvrtBody r x ind addr).ex c u = .refuse .convertSelector u := (if_neg hne0).trans (if_neg hne1)
  simp only [runExecute, executePhase, hc, Bool.false_eq_true, if_false, hex, settle]

end Convert

/-- Settles O53: the selector is of R[r], which Operand Fetch leaves alone. -/
theorem cnvrtConvertsBySelector : Obligations.CnvrtConvertsBySelector := by
  intro r x ind addr s hcoh
  refine ⟨rfl, fun hpass => ?_, exec_operand_raises rfl rfl hcoh⟩
  obtain ⟨u, c, hsame, hc, hopnd, hexec⟩ := exec_operand_executes (i := .cnvrt r x ind addr) rfl rfl rfl hcoh hpass
  have hregs : s.regs = u.regs := by rw [hsame]
  have hfregs : s.fregs = u.fregs := by rw [hsame]
  rw [hexec, hregs, hfregs, ← hopnd]
  refine ⟨fun hsel => ⟨_, SameButAccessFpu.of_access hsame (u.fpuToFixed c.opnd).fpu .fetch, rfl, ?_⟩,
    fun hsel => ⟨_, SameButAccessFpu.of_access hsame (u.fpuToFloat c.opnd).fpu .fetch, rfl, ?_⟩,
    fun hne0 hne1 => ⟨u, hsame, ?_⟩⟩
  · exact congrArg _ (runExecute_cnvrt_toFixed hc hsel)
  · exact congrArg _ (runExecute_cnvrt_toFloat hc hsel)
  · exact congrArg _ (runExecute_cnvrt_refused hc hne0 hne1)

/-! VADD, VSUB -/

/-- Settles O54: Decode refuses both, and a marked state has no step. -/
theorem vectorInstructionsAreRefused : Obligations.VectorInstructionsAreRefused := by
  intro fr x ind addr s hfatal
  have hexec {i : Instr} (hb : (bodyOf i).refusal = some .vectorUnspecified) :
      exec i s = .next (s.refuse .vectorUnspecified) := by rw [exec_eq_perform, perform_refused hb]
  obtain ⟨-, hmarked, -⟩ := marksLeaveNoStep
  exact ⟨rfl, rfl, hexec rfl, hexec rfl, hmarked (s.refuse .vectorUnspecified) _ hfatal rfl⟩

end Sys2Proof.Machine
end

section
/-! Input/output, halt and trap (`46_io_system.md` R340 to R343, R350): an instruction with nothing to do in Operand
Fetch, whose Execute completes and goes on to Result Store, or ends the instruction. -/

namespace Sys2Proof.Machine

section NoFetch

variable {i : Instr} {s : State}

/-- Execute and Result Store complete. -/
theorem exec_no_fetch_completes {c₁ c₂ : Record} {s₁ s₂ t : State} (hw : i.wellFormed = true)
    (hb : (bodyOf i).refusal = none)
    (hof : (bodyOf i).of (Record.new i) (s.atOperandFetch i) = .done (Record.new i) (s.atOperandFetch i))
    (hex : (bodyOf i).ex (Record.new i) (s.setControl (.execute (Record.new i))) = .done c₁ s₁)
    (hc : c₁.faulted = false) (hrs : (bodyOf i).rs c₁ (s₁.setControl (.resultStore c₁)) = .done c₂ s₂)
    (ht : s₂.setControl .fetch = t) : exec i s = .next t := by
  rw [exec_eq_perform, perform_register hb hof hw hex hc hrs, ht]

/-- Execute does not complete, so the instruction ends with it. -/
theorem exec_no_fetch_ends {p : PhaseResult} {t : State} (hw : i.wellFormed = true) (hb : (bodyOf i).refusal = none)
    (hof : (bodyOf i).of (Record.new i) (s.atOperandFetch i) = .done (Record.new i) (s.atOperandFetch i))
    (hex : (bodyOf i).ex (Record.new i) (s.setControl (.execute (Record.new i))) = p)
    (hp : ∀ c u, p ≠ .done c u) (ht : settle .resultStore p = t) : exec i s = .next t := by
  have hphase : executePhase (bodyOf i) (Record.new i) (s.setControl (.execute (Record.new i))) = p := by
    rw [executePhase, Record.unfaulted_of_legal hw, hex]
    rfl
  rw [exec_eq_perform, perform_no_fetch s hb hof, runExecute, hphase, ← ht]
  cases p with
  | done c u => exact absurd rfl (hp c u)
  | halted c u | restart u | raise k u | refuse r u => rfl

end NoFetch

/-! IN -/

section Inp

variable {r : RegId} {dev : BitVec 5} {s : State}

theorem inpBody_ex_pops {v : Word} {rest : List Word} (c : Record) (h : s.device dev = v :: rest) :
    (inpBody r dev).ex c s = .done { c with value := v } (s.setDevice dev rest) := by
  simp only [inpBody, h]

theorem inpBody_ex_waits (c : Record) (h : s.device dev = []) :
    (inpBody r dev).ex c s = .restart (s.waitForInput dev) := by
  simp only [inpBody, h]

theorem exec_inp_pops {v : Word} {rest : List Word} (h : s.device dev = v :: rest) :
    exec (.inp r dev) s = .next (((s.setDevice dev rest).setReg r v).setControl .fetch) :=
  exec_no_fetch_completes rfl rfl rfl (inpBody_ex_pops _ h) rfl rfl rfl

theorem exec_inp_waits (h : s.device dev = []) :
    exec (.inp r dev) s = .next ((s.waitForInput dev).setControl .fetch) :=
  exec_no_fetch_ends rfl rfl rfl (inpBody_ex_waits _ h) (fun _ _ => nofun) rfl

end Inp

/-- Settles O55: by whether the buffer holds a word. -/
theorem inPopsOrWaits : Obligations.InPopsOrWaits := by
  refine fun r dev s => ⟨rfl, fun v rest h => ?_, fun h => ⟨s.setControl .fetch, rfl, exec_inp_waits h⟩⟩
  exact ⟨s.setControl .fetch, _, rfl, rfl, exec_inp_pops h, rfl, State.device_setDevice_self s dev rest,
    fun _ hne => State.device_setDevice_ne s hne rest⟩

/-! OUT -/

theorem exec_out (r : RegId) (dev : BitVec 5) (s : State) :
    exec (.out r dev) s = .next ((s.pushDevice dev (s.regs.get r)).setControl .fetch) :=
  exec_no_fetch_completes rfl rfl rfl rfl rfl rfl rfl

/-- Settles O56: the push replaces one buffer and leaves the others. -/
theorem outPushesRegister : Obligations.OutPushesRegister := fun r dev s =>
  ⟨rfl, s.setControl .fetch, _, rfl, rfl, exec_out r dev s, rfl, State.device_setDevice_self s dev _,
    fun _ hne => State.device_setDevice_ne s hne _⟩

/-! CHK -/

section Chk

variable {r : RegId} {dev : BitVec 5} {s : State}

theorem chkBody_ex_nonEmptyBit (c : Record) (h : s.cfg.chkMode = .nonEmptyBit) :
    (chkBody r dev).ex c s = .done { c with value := if s.device dev = [] then 0 else 1 } s := by
  simp only [chkBody, h]

theorem chkBody_ex_size (c : Record) (h : s.cfg.chkMode = .size) :
    (chkBody r dev).ex c s = .done { c with value := BitVec.ofNat 16 (s.device dev).length } s := by
  simp only [chkBody, h]

theorem chkBody_ex_draw (c : Record) (h : s.cfg.chkMode = .draw) :
    (chkBody r dev).ex c s = .done { c with value := s.draw } (s.drawn 1) := by
  simp only [chkBody, h]

end Chk

/-- Settles O57: Execute leaves V by CHK_MODE, Result Store writes it to R[r]. -/
theorem chkReadsStatus : Obligations.ChkReadsStatus := fun _ _ s =>
  ⟨rfl, s.setControl .fetch, rfl, rfl,
    fun hmode => exec_no_fetch_completes rfl rfl rfl (chkBody_ex_nonEmptyBit _ hmode) rfl rfl rfl,
    fun hmode => exec_no_fetch_completes rfl rfl rfl (chkBody_ex_size _ hmode) rfl rfl rfl,
    fun hmode => ⟨s.draw, s.draws + 1,
      exec_no_fetch_completes rfl rfl rfl (chkBody_ex_draw _ hmode) rfl rfl rfl⟩⟩

/-! HLT -/

/-- HLT ends with its Execute, Result Store pending. -/
theorem exec_hlt (s : State) :
    exec .hlt s = .next (s.stopRunning.setControl (.resultStore (Record.new .hlt))) :=
  exec_no_fetch_ends rfl rfl rfl rfl (fun _ _ => nofun) rfl

/-- The pending Result Store of HLT does nothing but return to phase 1. -/
theorem tick_resultStore_hlt {s : State} (h : s.Live) (hc : s.control = .resultStore (Record.new .hlt)) :
    tick s = .next (s.setControl .fetch) := by
  simp only [tick_of_live h, phaseStep, hc]
  rfl

/-- Settles O58: what HLT leaves pending, and the tick that performs it. -/
theorem hltStopsTheRunLoop : Obligations.HltStopsTheRunLoop := fun s =>
  ⟨rfl, Record.new .hlt, rfl, exec_hlt s, fun h =>
    tick_resultStore_hlt (s := s.stopRunning.setControl (.resultStore (Record.new .hlt))) h rfl⟩

/-! TRAP -/

/-- A privileged read inside memory answers memory's word. -/
theorem State.memReadP_ok {s : State} (h : s.Coherent) {v : Word} (hv : (addrOf v).toNat < s.cfg.wordCount) :
    s.memReadP v = .ok (s.wordAt v, s.afterLoad (addrOf v)) := by
  simp only [State.memReadP, State.readAt, checkAccess_passes (.inr rfl) hv, State.cachedWord_eq h, State.wordAt]

/-- Beyond memory a privileged read raises Fault(3). -/
theorem State.memReadP_beyond {s : State} {v : Word} (hv : s.cfg.wordCount ≤ (addrOf v).toNat) :
    s.memReadP v = .error .beyondLimit := by
  simp only [State.memReadP, State.readAt, checkAccess_beyond_of_open (.inr rfl) hv]

theorem State.memWriteP_ok {s : State} {v w : Word} (hv : (addrOf v).toNat < s.cfg.wordCount) :
    s.memWriteP v w = .ok (s.storeWord (addrOf v) w) := by
  simp only [State.memWriteP, State.writeAt, checkAccess_passes (.inr rfl) hv]

/-- The address of a trap table entry, in numbers. -/
theorem addrOf_add_code (base : Word) (code : BitVec 4) :
    addrOf (base + code.setWidth 16) = BitVec.ofNat 12 (base.toNat + code.toNat) := by
  apply BitVec.eq_of_toNat_eq
  have := code.isLt
  simp only [addrOf_toNat, BitVec.toNat_add, BitVec.toNat_setWidth, BitVec.toNat_ofNat]
  omega

/-- The state TRAP's two reads leave, of the base of the table and of its entry (`46_io_system.md` R350). -/
def State.afterTrapReads (s : State) (entry : Addr) : State := (s.afterLoad 0).afterLoad entry

/-- The state TRAP's own writes leave (`46_io_system.md` R350). -/
def State.afterTrapEntry (s : State) (target : Word) : State :=
  { s.storeWord 2 (s.pc.setWidth 16) with
    msr := { s.msr with supervisor := true }
    pc := target.setWidth 12 }

section Trap

variable {hi : BitVec 6} {code : BitVec 4} {s : State} {entry : Addr}

/-- The base of the trap table, at address 0, can always be read: WORD_COUNT is at least 8. -/
theorem memReadP_trapBase (h : s.Coherent) (hcount : 8 ≤ s.cfg.wordCount) :
    s.memReadP 0 = .ok (s.mem.read 0, s.afterLoad 0) :=
  State.memReadP_ok h (show 0 < s.cfg.wordCount by omega)

/-- PC can always be saved at address 2. -/
theorem trapEnter_done (target : Word) (c : Record) (hcount : 8 ≤ s.cfg.wordCount) :
    trapEnter target c s = .done c (s.afterTrapEntry target) := by
  have hsave : (addrOf 2).toNat < s.cfg.wordCount := show 2 < s.cfg.wordCount by omega
  simp only [trapEnter, State.memWriteP_ok hsave]
  rfl

theorem trapBody_ex_illegal (c : Record) (h : hi ≠ 0) :
    (trapBody hi code).ex c s = .raise .illegalTrapCode s :=
  if_neg h

theorem trapBody_ex_enters (c : Record) (h : s.Coherent) (hcount : 8 ≤ s.cfg.wordCount)
    (hentry : entry = BitVec.ofNat 12 ((s.mem.read 0).toNat + code.toNat)) (hlt : entry.toNat < s.cfg.wordCount) :
    (trapBody 0 code).ex c s
      = .done c ((s.afterTrapReads entry).afterTrapEntry (s.mem.read entry.toNat)) := by
  rw [← addrOf_add_code] at hentry
  subst hentry
  have hbase := memReadP_trapBase h hcount
  have hread := State.memReadP_ok (State.coherent_afterLoad h 0) hlt
  simp only [trapBody, if_true, hbase, hread]
  exact trapEnter_done (s := s.afterTrapReads _) _ c hcount

theorem trapBody_ex_beyond (c : Record) (h : s.Coherent) (hcount : 8 ≤ s.cfg.wordCount)
    (hentry : entry = BitVec.ofNat 12 ((s.mem.read 0).toNat + code.toNat)) (hbeyond : s.cfg.wordCount ≤ entry.toNat) :
    (trapBody 0 code).ex c s = .raise .beyondLimit (s.afterLoad 0) := by
  rw [← addrOf_add_code] at hentry
  subst hentry
  have hbase := memReadP_trapBase h hcount
  simp only [trapBody, if_true, hbase, State.memReadP_beyond (s := s.afterLoad 0) hbeyond]

end Trap

/-- Settles O59: Execute enters through the table, or raises before any write. -/
theorem trapEntersThroughTable : Obligations.TrapEntersThroughTable := by
  intro hi code s entry hvalid hwf hcoh hentry
  obtain ⟨hcount, -⟩ := hvalid
  refine ⟨rfl, ?_, ?_, fun hne => ?_⟩
  · rintro rfl hlt
    refine ⟨{ (s.afterTrapReads entry).storeWord 2 (s.pc.setWidth 16) with mem := s.mem, control := .fetch },
      s.mem.write 2 (s.pc.setWidth 16), rfl, rfl, rfl, Memory.read_write hwf 2 _, ?_⟩
    exact exec_no_fetch_completes rfl rfl rfl
      (trapBody_ex_enters (s := s.setControl _) _ hcoh hcount hentry hlt) rfl rfl rfl
  · rintro rfl hbeyond
    exact ⟨(s.setControl (.execute _)).afterLoad 0, rfl, rfl, State.coherent_afterLoad (s := s.setControl _) hcoh 0,
      exec_no_fetch_ends rfl rfl rfl
        (trapBody_ex_beyond (s := s.setControl _) _ hcoh hcount hentry hbeyond) (fun _ _ => nofun) rfl⟩
  · exact ⟨s.setControl (.execute _), rfl, hcoh,
      exec_no_fetch_ends rfl rfl rfl (trapBody_ex_illegal _ hne) (fun _ _ => nofun) rfl⟩

end Sys2Proof.Machine
end

section
/-! Fault dispatch (`60_exceptions.md` R371, R372, R376): inside a handler it is fatal, outside one it saves PC and R0
and enters the handler. -/

namespace Sys2Proof.Machine

theorem faultDispatch_of_handling {s : State} (h : s.msr.executingFaultHandler = true) (k : FaultCode) :
    faultDispatch k s = fatalStop { s with mfr := MFR.only k } :=
  if_pos h

/-- `s` after steps 1 and 2 of a fault's dispatch: its kind recorded and the status set. -/
def State.withFaultStatus (k : FaultCode) (s : State) : State :=
  { s with mfr := MFR.only k, msr := s.msr.enterFault }

theorem faultDispatch_of_not_handling {s : State} (h : s.msr.executingFaultHandler = false) (k : FaultCode) :
    faultDispatch k s = enterHandler (saveFault k (s.withFaultStatus k)) := by
  rw [faultDispatch, h]
  rfl

/-- Settles O20: what is left carries the fatal mark, which leaves neither a step nor a tick. -/
theorem faultWhileHandlingIsFatal : Obligations.FaultWhileHandlingIsFatal := by
  intro k s h
  obtain ⟨fatalHasNoStep, -⟩ := marksLeaveNoStep
  rw [faultDispatch_of_handling h]
  exact ⟨rfl, fatalHasNoStep _ rfl⟩

/-- The words saved, PC at 4 and R0 at 5 (`60_exceptions.md` R372). -/
theorem saveFault_mem_read {s : State} (h : s.mem.wf) (k : FaultCode) (a : Nat) :
    (saveFault k s).mem.read a
      = if a = 4 then s.pc.setWidth 16 else if a = 5 then s.regs.get .r0 else s.mem.read a := by
  have hread : (saveFault k s).mem.read a
      = if a = 5 then s.regs.get .r0 else if a = 4 then s.pc.setWidth 16 else s.mem.read a :=
    (Memory.read_write (Memory.write_wf h 4 _) 5 _ a).trans (by rw [Memory.read_write h])
  rw [hread]
  by_cases h4 : a = 4
  · simp [h4]
  · simp [h4]

theorem State.coherent_saveFault {s : State} (hwf : s.mem.wf) (h : s.Coherent) (k : FaultCode) :
    (saveFault k s).Coherent :=
  State.coherent_storeWord (Memory.write_wf hwf 4 _) (State.coherent_storeWord hwf h 4 _) 5 _

/-- PC becomes memory's word at the fault-handler vector. -/
theorem enterHandler_eq {s : State} (h : s.Coherent) :
    enterHandler s = { s with mar := 1, mbr := s.mem.read 1, cache := s.cacheAfterRead 1,
                              pc := (s.mem.read 1).setWidth 12, control := .fetch } := by
  have hvector : s.cachedWord 1 = s.mem.read 1 := State.cachedWord_eq h 1
  rw [enterHandler, State.afterLoad, hvector]
  rfl

theorem MSR.enterFault_eq (m : MSR) :
    m.enterFault = { m with executingFaultHandler := true, supervisor := true,
                            supervisorFault := if m.supervisor then true else m.supervisorFault } := by
  cases hm : m.supervisor <;> simp [MSR.enterFault, hm]

/-- Settles O19: the words are saved outside the vector, and beside them only MAR, MBR and the cache are written. -/
theorem faultDispatchSavesAndVectors : Obligations.FaultDispatchSavesAndVectors := by
  intro k s hwf hcoh hhandling
  have hsaved := saveFault_mem_read (s := s.withFaultStatus k) hwf k
  have hvector : (saveFault k (s.withFaultStatus k)).mem.read 1 = s.mem.read 1 := hsaved 1
  refine ⟨(saveFault k (s.withFaultStatus k)).mem,
    { s with mar := 1, mbr := s.mem.read 1, cache := (saveFault k (s.withFaultStatus k)).cacheAfterRead 1 },
    hsaved, rfl, rfl, ?_⟩
  rw [faultDispatch_of_not_handling hhandling,
    enterHandler_eq (State.coherent_saveFault (s := s.withFaultStatus k) hwf hcoh k), hvector, ← MSR.enterFault_eq]
  cases k <;> rfl

end Sys2Proof.Machine
end

section
/-! What enters supervisor mode (`60_exceptions.md` R382): every update of an instruction's phases but TRAP's entry
stays in user mode, and from user mode a dispatched fault leads to its handler. -/

namespace Sys2Proof.Machine

/-- The mode is user mode (`10_state.md` R26). -/
def State.UserMode (s : State) : Prop := s.msr.supervisor = false

/-- Where an instruction from user mode may end without TRAP's entry. -/
def State.UserOrHandler (s : State) : Prop := s.UserMode ∨ s.HandlerEntered

theorem State.UserOrHandler.handlerEntered {s : State} (h : s.UserOrHandler) (hs : s.msr.supervisor = true) :
    s.HandlerEntered :=
  h.resolve_left fun huser => Bool.false_ne_true (huser.symm.trans hs)

/-- A fatal fault leaves the mode as it is; any other enters its handler. -/
theorem userOrHandler_faultDispatch {s : State} (h : s.UserMode) (k : FaultCode) :
    (faultDispatch k s).UserOrHandler := by
  cases hx : s.msr.executingFaultHandler with
  | true => exact .inl (faultDispatch_of_handling hx k ▸ h)
  | false => exact .inr (faultDispatch_of_not_handling hx k ▸ ⟨rfl, MFR.count_only k, rfl⟩)

theorem userMode_leads : ControlLeads State.UserMode State.UserOrHandler where
  ends _ h := .inl h
  setControl _ _ h := h
  dispatch k _ h := userOrHandler_faultDispatch h k
  refuse _ _ h := .inl h

theorem State.UserMode.waitForInput {s : State} (h : s.UserMode) (dev : BitVec 5) : (s.waitForInput dev).UserMode := by
  unfold State.waitForInput
  dsimp only
  split <;> exact h

theorem userMode_updateClosed : UpdateClosed State.UserMode where
  setReg _ _ _ h := h
  setIndex _ _ _ h := h
  setFloat _ _ _ h := h
  setPc _ _ h := h
  setIar _ _ h := h
  aluStep _ _ _ h := h
  fpuStep _ _ _ h := h
  drawn _ _ h := h
  setDevice _ _ _ h := h
  wait _ d h := h.waitForInput d
  stop _ h := h
  load _ _ h := h
  store _ _ _ _ h := h

theorem userMode_bodyKeeps {i : Instr} (hi : i.mnemonic ≠ .TRAP) : BodyKeeps State.UserMode (bodyOf i) :=
  bodyOf_keeps_of_ne userMode_updateClosed i hi

/-! The instruction -/

theorem userOrHandler_exec {i : Instr} {s t : State} (h : s.UserMode) (he : exec i s = .next t) :
    i.mnemonic = .TRAP ∨ t.UserOrHandler :=
  or_iff_not_imp_left.mpr fun hi => exec_leads userMode_leads (userMode_bodyKeeps hi) h he

/-! The step -/

/-- `u` has what `s` decodes its instruction from. -/
def State.DecodesAs (s u : State) : Prop := u.cfg = s.cfg ∧ u.ir = s.ir

theorem decodesAs_controlClosed (s : State) : ControlClosed s.DecodesAs where
  setControl _ _ h := h
  dispatch k u h := by
    unfold faultDispatch
    split <;> exact h
  refuse _ _ h := h

theorem decodesAs_bodyClosed (s : State) : BodyClosed s.DecodesAs where
  setReg _ _ _ h := h
  setIndex _ _ _ h := h
  setFloat _ _ _ h := h
  setPc _ _ h := h
  setIar _ _ h := h
  aluStep _ _ _ h := h
  fpuStep _ _ _ h := h
  drawn _ _ h := h
  setDevice _ _ _ h := h
  wait _ _ h := h
  stop _ h := h
  load _ _ h := h
  store _ _ _ _ h := h
  trap _ _ _ _ h := h

theorem exec_decodesAs {i : Instr} {s t : State} (h : exec i s = .next t) : s.DecodesAs t :=
  exec_leads (decodesAs_controlClosed s).leads (bodyOf_keeps (decodesAs_bodyClosed s) i) ⟨rfl, rfl⟩ h

/-- IR decodes to TRAP. -/
def State.DecodesToTrap (s : State) : Prop := ∃ i, decode s.cfg.opcodeMap s.ir = .ok i ∧ i.mnemonic = .TRAP

theorem State.DecodesAs.decodesToTrap {s t : State} (h : s.DecodesAs t) (hs : s.DecodesToTrap) : t.DecodesToTrap := by
  obtain ⟨hcfg, hir⟩ := h
  rw [State.DecodesToTrap, hcfg, hir]
  exact hs

theorem userOrHandler_runDecoded {s t : State} (h : s.UserMode) (hr : runDecoded s = .next t) :
    t.DecodesToTrap ∨ t.UserOrHandler := by
  unfold runDecoded at hr
  split at hr
  · next i hi =>
    exact (userOrHandler_exec h hr).imp_left fun htrap => (exec_decodesAs hr).decodesToTrap ⟨i, hi, htrap⟩
  · cases hr
    exact .inr (userOrHandler_faultDispatch h _)

theorem userOrHandler_fetchPhase {s : State} (h : s.UserMode) : (fetchPhase s).UserOrHandler := by
  unfold fetchPhase
  split
  · exact .inl h
  · split
    · exact userOrHandler_faultDispatch (s := { s with mar := s.pc }) h _
    · next s' hr =>
      have hread : s'.UserMode := readAt_keeps userMode_updateClosed hr h
      exact .inl hread

/-- A fetch that reaches Decode has dispatched no fault. -/
theorem userOrHandler_runFetched {s t : State} (h : s.UserOrHandler) (hr : runFetched s = .next t) :
    t.DecodesToTrap ∨ t.UserOrHandler := by
  unfold runFetched at hr
  split at hr
  · next hdecode =>
    rcases h with huser | ⟨-, -, hfetch⟩
    · exact userOrHandler_runDecoded huser hr
    · exact absurd (hdecode.symm.trans hfetch) nofun
  all_goals
    cases hr
    exact .inr h

theorem live_of_tick_next {s t : State} (h : tick s = .next t) : s.Live := by
  unfold tick at h
  split at h
  · cases h
  · next hfatal =>
    split at h
    · cases h
    · next hrefused => exact ⟨Bool.eq_false_of_not_eq_true hfatal, hrefused⟩

theorem eq_phaseStep_of_tick_next {s t : State} (h : tick s = .next t) : t = phaseStep s := by
  rw [tick_of_live (live_of_tick_next h)] at h
  cases h
  rfl

theorem live_of_step_next {s t : State} (h : step s = .next t) : s.Live := by
  by_contra hlive
  exact hlive (live_of_tick_next (step_eq_tick_of_not_live hlive ▸ h))

theorem step_of_record {s : State} {c : Record} (h : s.Live) (hc : s.control.record? = some c) :
    step s = .next (finishInstruction s) := by
  obtain ⟨hfatal, hrefused⟩ := h
  cases hk : s.control with
  | fetch | decode => simp [hk, Control.record?] at hc
  | operandFetch _ | execute _ | resultStore _ => simp [step, hfatal, hrefused, hk]

theorem userOrHandler_step_of_no_record {s t : State} (h : s.UserMode) (hc : s.control.record? = none)
    (hs : step s = .next t) : t.DecodesToTrap ∨ t.UserOrHandler := by
  have hlive := live_of_step_next hs
  cases hk : s.control with
  | fetch => exact userOrHandler_runFetched (userOrHandler_fetchPhase h) (step_of_fetch hlive hk ▸ hs)
  | decode => exact userOrHandler_runDecoded h (step_of_decode hlive hk ▸ hs)
  | operandFetch _ | execute _ | resultStore _ => simp [hk, Control.record?] at hc

theorem userOrHandler_finishInstruction {s : State} {c : Record} (h : s.UserMode) (hc : s.control.record? = some c)
    (hi : c.instr.mnemonic ≠ .TRAP) : (finishInstruction s).UserOrHandler := by
  refine finishInstruction_leads userMode_leads (fun c' hc' => ?_) h
  obtain rfl : c = c' := Option.some.inj (hc.symm.trans hc')
  exact userMode_bodyKeeps hi

/-! The tick -/

theorem Instr.eq_trap {i : Instr} (h : i.mnemonic = .TRAP) : ∃ hi code, i = .trap hi code := by
  cases i with
  | trap hi code => exact ⟨hi, code, rfl⟩
  | _ => cases h

theorem userMode_operandFetch (i : Instr) (c : Record) {s : State} (h : s.UserMode) :
    ((bodyOf i).of c s).state.UserMode := by
  by_cases hi : i.mnemonic = .TRAP
  · obtain ⟨_, _, rfl⟩ := Instr.eq_trap hi
    exact h
  · exact (userMode_bodyKeeps hi).of c s h

theorem userMode_storePhase (i : Instr) (c : Record) {s : State} (h : s.UserMode) :
    (storePhase (bodyOf i) c s).state.UserMode := by
  by_cases hi : i.mnemonic = .TRAP
  · obtain ⟨_, _, rfl⟩ := Instr.eq_trap hi
    unfold storePhase
    split <;> exact h
  · exact storePhase_keeps (userMode_bodyKeeps hi) c h

theorem userOrHandler_decodePhase {s : State} (h : s.UserMode) : (decodePhase s).UserOrHandler := by
  unfold decodePhase
  split
  · exact decodeInto_leads userMode_leads _ _ h
  · exact userOrHandler_faultDispatch h _

theorem userOrHandler_phaseStep {s : State} (h : s.UserMode) :
    (∃ c, s.control = .execute c ∧ c.instr.mnemonic = .TRAP) ∨ (phaseStep s).UserOrHandler := by
  unfold phaseStep
  split
  · exact .inr (userOrHandler_fetchPhase h)
  · exact .inr (userOrHandler_decodePhase h)
  · exact .inr (settle_leads userMode_leads _ (userMode_operandFetch _ _ h))
  · next c hc =>
    by_cases hi : c.instr.mnemonic = .TRAP
    · exact .inl ⟨c, hc, hi⟩
    · exact .inr (settle_leads userMode_leads _ (executePhase_keeps (userMode_bodyKeeps hi) c h))
  · exact .inr (settle_leads userMode_leads _ (userMode_storePhase _ _ h))

/-- Settles O25: without TRAP's entry an instruction, a step or a tick from user mode ends in user mode or in a fault
handler just entered. -/
theorem supervisorEnteredOnlyByFaultOrTrap : Obligations.SupervisorEnteredOnlyByFaultOrTrap := by
  intro s t (huser : s.UserMode) hsuper
  have entered (h : t.UserOrHandler) : t.HandlerEntered := h.handlerEntered hsuper
  refine ⟨fun i he => (userOrHandler_exec huser he).imp_right entered, fun hs => ?_, fun ht => ?_⟩
  · cases hc : s.control.record? with
    | none => exact .inr ((userOrHandler_step_of_no_record huser hc hs).imp (fun htrap => ⟨rfl, htrap⟩) entered)
    | some c =>
      by_cases hi : c.instr.mnemonic = .TRAP
      · exact .inl ⟨c, rfl, hi⟩
      · rw [step_of_record (live_of_step_next hs) hc] at hs
        cases hs
        exact .inr (.inr (entered (userOrHandler_finishInstruction huser hc hi)))
  · obtain rfl := eq_phaseStep_of_tick_next ht
    exact (userOrHandler_phaseStep huser).imp_right entered

end Sys2Proof.Machine
end

section
/-! The host's reset and its bulk load (`70_reset_and_hazards.md` R410, R412). -/

namespace Sys2Proof.Machine

/-- Settles O12: every component is listed, and a memory with no entry reads as 0. -/
theorem resetSetsEverything : Obligations.ResetSetsEverything := fun s => ⟨s.draws, rfl, Memory.read_nil⟩

/-! The block of a bulk load -/

/-- The block holds its words from its start on; below 4096 no address wraps around. -/
theorem loadWords_mem_read {words : List Word} {a : Nat} {s : State} (hwf : s.mem.wf)
    (hend : a + words.length ≤ 4096) (b : Nat) :
    (loadWords words a s).mem.read b
      = if h : a ≤ b ∧ b < a + words.length then words[b - a]'(by omega) else s.mem.read b := by
  induction words generalizing a s with
  | nil => rw [dif_neg (by simp), loadWords]
  | cons w rest ih =>
    rw [List.length_cons] at hend
    have hfirst : (s.storeWord (BitVec.ofNat 12 a) w).mem.read b = if b = a then w else s.mem.read b := by
      rw [State.storeWord_mem, Memory.read_write hwf, BitVec.toNat_ofNat, Nat.mod_eq_of_lt (by omega)]
    rw [loadWords, ih (Memory.write_wf hwf _ w) (by omega), hfirst]
    simp only [List.length_cons]
    rcases lt_trichotomy b a with hlt | rfl | hgt
    · rw [dif_neg (by omega), if_neg (by omega), dif_neg (by omega)]
    · simp
    · by_cases hin : b < a + 1 + rest.length
      · have hnext : b - a = b - (a + 1) + 1 := by omega
        rw [dif_pos (by omega), dif_pos (by omega)]
        simp only [hnext, List.getElem_cons_succ]
      · rw [dif_neg (by omega), if_neg (by omega), dif_neg (by omega)]

theorem loadProgram_of_le {s : State} {words : List Word} {start : Nat}
    (h : start + words.length ≤ s.cfg.wordCount) : s.loadProgram words start = loadWords words start s :=
  if_pos (.inr h)

theorem loadProgram_of_gt {s : State} {words : List Word} {start : Nat} (hne : words ≠ [])
    (h : s.cfg.wordCount < start + words.length) : s.loadProgram words start = s :=
  if_neg (by simp [hne, h])

/-! The words of binary-digit strings -/

theorem digitValue_of_binary {c : Char} (h : c = '0' ∨ c = '1') : digitValue c = some (decide (c = '1')) := by
  rcases h with rfl | rfl <;> rfl

theorem digitValue_of_not_binary {c : Char} (h : ¬(c = '0' ∨ c = '1')) : digitValue c = none := by
  unfold digitValue
  split
  · exact absurd (.inl rfl) h
  · exact absurd (.inr rfl) h
  · rfl

/-- The next digit becomes the lowest bit and moves the others up. -/
theorem getLsbD_push_digit (acc : Word) (b : Bool) {j : Nat} (hj : j < 16) :
    (acc <<< 1 ||| (BitVec.ofBool b).setWidth 16).getLsbD j = if j = 0 then b else acc.getLsbD (j - 1) := by
  cases j with
  | zero => simp
  | succ j => simp [hj, BitVec.getLsbD_eq_getElem (show j < 16 by omega)]

/-- The digits stand in the low bits, the last one lowest, above them what was read before. -/
theorem digitsValue_eq_some_iff {text : List Char} {acc w : Word} :
    digitsValue acc text = some w ↔ (∀ c ∈ text, c = '0' ∨ c = '1')
      ∧ ∀ j < 16, w.getLsbD j
        = if j < text.length then decide (text[text.length - 1 - j]? = some '1')
          else acc.getLsbD (j - text.length) := by
  induction text generalizing acc with
  | nil =>
    simp only [digitsValue, Option.some.injEq, List.length_nil, Nat.not_lt_zero, if_false, Nat.sub_zero]
    exact eq_comm.trans (BitVec.eq_of_getLsbD_eq_iff.trans (and_iff_right (List.forall_mem_nil _)).symm)
  | cons c rest ih =>
    by_cases hc : c = '0' ∨ c = '1'
    · simp only [digitsValue, digitValue_of_binary hc, ih, List.forall_mem_cons, hc, true_and, List.length_cons]
      refine and_congr_right fun _ => forall₂_congr fun j hj => Eq.congr_right ?_
      rcases lt_trichotomy j rest.length with hlt | rfl | hgt
      · have hnext : rest.length + 1 - 1 - j = rest.length - 1 - j + 1 := by omega
        rw [if_pos hlt, if_pos (by omega)]
        simp only [hnext, List.getElem?_cons_succ]
      · rw [if_neg (by omega), if_pos (by omega), getLsbD_push_digit _ _ (by omega)]
        simp
      · rw [if_neg (by omega), if_neg (by omega), getLsbD_push_digit _ _ (by omega), if_neg (by omega), Nat.sub_sub]
    · simp [digitsValue, digitValue_of_not_binary hc, hc]

theorem wordOfDigits_eq_some_iff {text : List Char} {w : Word} :
    wordOfDigits text = some w ↔ text.length = 16 ∧ (∀ c ∈ text, c = '0' ∨ c = '1')
      ∧ ∀ k < 16, w.getLsbD (15 - k) = decide (text[k]? = some '1') := by
  by_cases hlength : text.length = 16
  · simp only [wordOfDigits, hlength, if_true, digitsValue_eq_some_iff, true_and]
    refine and_congr_right fun _ => ⟨fun h k hk => ?_, fun h j hj => ?_⟩
    · rw [h (15 - k) (by omega), if_pos (by omega), show 16 - 1 - (15 - k) = k by omega]
    · rw [if_pos hj, ← h (16 - 1 - j) (by omega), show 15 - (16 - 1 - j) = j by omega]
  · simp [wordOfDigits, hlength]

theorem wordsOfDigits_of_map {texts : List (List Char)} {words : List Word}
    (h : texts.map wordOfDigits = words.map some) : wordsOfDigits texts = some words := by
  induction texts generalizing words with
  | nil =>
    rw [List.map_eq_nil_iff.mp h.symm]
    rfl
  | cons text rest ih =>
    cases words with
    | nil => cases h
    | cons w ws =>
      obtain ⟨hfirst, hrest⟩ := List.cons.inj h
      simp only [wordsOfDigits, hfirst, ih hrest]

/-- Settles O60: a block inside memory is written word by word, and the digits of a string are its word's bits from
the highest down. -/
theorem loadProgramWritesBlock : Obligations.LoadProgramWritesBlock := by
  intro s words start hwf hcount
  refine ⟨fun hend b => ?_, loadProgram_of_gt, fun _ _ => wordOfDigits_eq_some_iff, fun texts htexts => ?_⟩
  · rw [loadProgram_of_le hend, loadWords_mem_read hwf (by omega)]
  · simp only [State.loadProgramDigits, wordsOfDigits_of_map htexts]

end Sys2Proof.Machine
end
